-- ==== Sys2Proof/Word.lean ====
section
/-!
DEFINITION. The numbers and bytes the 4180 is built on: bytes of the window, lock names, and the numbers of
stations, slots, lease classes and window offsets.
-/

namespace Sys2Proof

/-- One byte of the window, of a staging byte or of a result (00 section 6). -/
abbrev Byte := BitVec 8

/-- A lock name: 16 bits, of which 0 is not a lock name (R1). -/
abbrev LockName := BitVec 16

/-- A station number, 0 to 7, the value of SID2-SID0 (R91). -/
abbrev StationId := Fin 8

/-- The number of a record slot of the lock table, 0 to 63 (R1). -/
abbrev SlotId := Fin 64

/-- The number of a lease class, 0 to 3 (R70). -/
abbrev ClassId := Fin 4

/-- A window offset, 0 to 31, the value of A4-A0 (R173). -/
abbrev Offset := Fin 32

end Sys2Proof
end

