-- ==== Sys2Proof/Syntax.lean ====
section
/-!
DEFINITION. The commands of the block: one constructor per row of spec/opcode_table.json.
An engine row carries the station whose slot is served; its operands S0 to S3 stand in that slot (R112, R114).
-/

namespace Sys2Proof

/-- The events the 4180 reacts to, each whole (R22, R121, R173). -/
inductive Instr where
  /-- ATTACH at its turn, for the station served (R96). -/
  | attach (st : StationId)
  /-- DETACH at its first turn (R98). -/
  | detach (st : StationId)
  /-- A later turn of a detach walk in the station's slot (R100, R101). -/
  | detachWalkStep (st : StationId)
  /-- CLAIM at its turn (R24). -/
  | claim (st : StationId)
  /-- RELEASE at its turn (R41, R42). -/
  | release (st : StationId)
  /-- DOWNGRADE at its turn (R45, R46). -/
  | downgrade (st : StationId)
  /-- UPGRADE at its turn (R47). -/
  | upgrade (st : StationId)
  /-- RENEW at its turn (R78). -/
  | renew (st : StationId)
  /-- CANCEL at its turn (R58). -/
  | cancel (st : StationId)
  /-- CLEAR TAINT at its turn (R88). -/
  | clearTaint (st : StationId)
  /-- INSPECT at its turn (R147). -/
  | inspect (st : StationId)
  /-- LIST FIRST at its turn (R153). -/
  | listFirst (st : StationId)
  /-- LIST NEXT at its turn (R154). -/
  | listNext (st : StationId)
  /-- STATION INFO at its turn (R158). -/
  | stationInfo (st : StationId)
  /-- DEFINE at its turn (R165). -/
  | define (st : StationId)
  /-- AMEND at its turn (R169). -/
  | amend (st : StationId)
  /-- RETIRE at its turn (R171). -/
  | retire (st : StationId)
  /-- CONFIGURE with selector 0 to 3 at its turn (R162). -/
  | configureClass (st : StationId)
  /-- CONFIGURE with selector 4 at its turn (R163). -/
  | configurePrescaler (st : StationId)
  /-- CONFIGURE with selector 5 at its turn (R72, R163). -/
  | configureTickRun (st : StationId)
  /-- CONFIGURE with selector 6 at its turn (R164). -/
  | configureDefaults (st : StationId)
  /-- PURGE at its first turn (R104 to R106). -/
  | purge (st : StationId)
  /-- A later turn of a purge walk in the station's slot (R107, R108). -/
  | purgeWalkStep (st : StationId)
  /-- The turn of a captured code that names no command (R120). -/
  | badCommand (st : StationId)
  /-- The lease tick (R73). -/
  | leaseTick
  /-- The lease tick at which the station's holding in the slot expires (R81). -/
  | leaseExpiry (st : StationId) (slot : SlotId)
  /-- The lease tick at which the station's wait times out (R56). -/
  | waitTimeOut (st : StationId)
  /-- A read of RESULT (R124). -/
  | resultRead (st : StationId)
  /-- A read of STATUS (R178). -/
  | statusRead (st : StationId)
  /-- A read of NOTICE TAKE (R138). -/
  | noticeTake (st : StationId)
  /-- A write to MASK SET (R141). -/
  | maskSet (st : StationId) (value : Byte)
  /-- A write to MASK CLEAR (R141). -/
  | maskClear (st : StationId) (value : Byte)
  /-- A write to FAULT CAUSE (R128). -/
  | faultCauseWrite (st : StationId) (value : Byte)
  /-- A read (no byte) or a write (the byte written) of an offset from 22 to 31 (R177). -/
  | unassignedOffset (st : StationId) (offset : Offset) (written : Option Byte)
  /-- A write to an offset with no row of its own (R176). -/
  | windowWrite (st : StationId) (offset : Offset) (value : Byte)
  /-- The RESET pin takes a new level (R183). -/
  | reset (high : Bool)
  deriving DecidableEq, Repr

end Sys2Proof
end

