-- ==== Sys2Proof/Decode.lean ====
section
/-!
DEFINITION. The opcode table gives no row any bits: the rows are events, not words. So no word spells a command.
(The command codes that stations write to COMMAND, R182, are decoded in Machine/Operands.lean.)
-/

namespace Sys2Proof

/-- The command that a word of the opcode table spells: none, since no row of the table has bits. -/
def decodeTableWord (_nbits _w : Nat) : Option Instr := none

end Sys2Proof
end

