-- ==== Sys2Proof/Config.lean ====
section
/-!
DEFINITION. The fixed quantities of the part (00 section 4) and the offsets of the window (R176).
The spec leaves no value open, so this file holds no free value.
-/

namespace Sys2Proof.Config

/-- A holding count, and a commitment, never exceeds 16 (R9, R31). -/
def holdLimit : Nat := 16

/-- The depth of a holding is at most 15 (R4, R30). -/
def depthLimit : Nat := 15

/-- At most 48 records are STANDING (R16). -/
def standingLimit : Nat := 48

/-- A notice queue holds at most 8 notices (R131). -/
def noticeCapacity : Nat := 8

/-- CLK periods in one lease tick when P is 0 (R71). -/
def tickBase : Nat := 1024

/-- The supervisor station (R92). -/
def supervisor : StationId := 0

/-- Offsets of the window (R176); 0 to 3 are STAGE0 to STAGE3 and 6 to 9 are RDATA0 to RDATA3. -/
def offCommand : Offset := 4
def offResult : Offset := 5
def offStatus : Offset := 10
def offNoticeTake : Offset := 11
def offNoticeNameHigh : Offset := 12
def offNoticeNameLow : Offset := 13
def offNoticeDetail : Offset := 14
def offMaskSet : Offset := 15
def offMaskClear : Offset := 16
def offPendingKinds : Offset := 17
def offFaultCause : Offset := 18
def offFaultDetail : Offset := 19
def offNoticeCount : Offset := 20
def offHoldingCount : Offset := 21

/-- The first of the unassigned offsets 22 to 31 (R176, R177). -/
def firstUnassigned : Nat := 22

end Sys2Proof.Config
end

