-- ==== Sys2Proof/Machine/Types.lean ====
section
/-!
DEFINITION. The kinds of thing the 4180 keeps: records, holdings, waiter entries, notices, results, walks,
cursors and fault records, each in the manual's own shape.
-/

namespace Sys2Proof.Machine

/-- The mode of a holding (R3). -/
inductive Mode where
  | shared
  | exclusive
  deriving DecidableEq, Repr

/-- The request of a waiter entry (R50). -/
inductive Request where
  | shared
  | exclusive
  | upgrade
  deriving DecidableEq, Repr

/-- The deadline remaining of a waiter entry: a count of ticks, or UNLIMITED (R50). -/
inductive Deadline where
  | ticks (n : Nat)
  | unlimited
  deriving DecidableEq, Repr

/-- One station's hold on one record. No lease remaining means unleased (R3, R75). -/
structure Holding where
  mode : Mode
  depth : Nat
  lease : Option Nat
  deriving DecidableEq, Repr

/-- A station's place in a record's queue (R50). -/
structure Waiter where
  station : StationId
  request : Request
  deadline : Deadline
  deriving DecidableEq, Repr

/-- How a record came to exist (R3). -/
inductive Kind where
  | transient
  | standing
  deriving DecidableEq, Repr

/-- The attributes of a record (R3, R8), and the transient defaults (R15).
Bit n of the permit mask stands for station n (R179). -/
structure Attributes where
  leaseClass : ClassId
  sharedAllowed : Bool
  permit : Byte
  deriving DecidableEq, Repr

/-- A lock record (R3). The holders are a set indexed by station (R4); the queue's head is position 1 (R6);
the taint is clear, or set with the revoked station (R7). -/
structure Record where
  name : LockName
  kind : Kind
  attrs : Attributes
  holders : Vector (Option Holding) 8
  queue : List Waiter
  taint : Option StationId
  deriving DecidableEq, Repr

/-- The mode of a record as derived from its holders (R5). -/
inductive DerivedMode where
  | idle
  | shared
  | exclusive
  deriving DecidableEq, Repr

/-- An entry of the lease class table (R70, R74). -/
structure LeaseClass where
  length : Byte
  warn : Byte
  deriving DecidableEq, Repr

/-- The lease unit: P, the prescaler count, the tick-run flag and the class table (R70). -/
structure LeaseUnit where
  p : Byte
  count : Nat
  running : Bool
  classes : Vector LeaseClass 4
  deriving DecidableEq, Repr

/-- The kind of a notice in a queue (R129). NONE is what a take of an empty queue returns, not a notice. -/
inductive NoticeKind where
  | granted
  | timedOut
  | withdrawn
  | revoked
  | warning
  deriving DecidableEq, Repr

/-- A notice: kind, lock name and detail byte (R129). -/
structure Notice where
  kind : NoticeKind
  name : LockName
  detail : Byte
  deriving DecidableEq, Repr

/-- The cause of a withdrawal (R66). -/
inductive WithdrawalCause where
  | lease
  | permit
  deriving DecidableEq, Repr

/-- The result codes (R182). -/
inductive ResultCode where
  | none
  | done
  | granted
  | queued
  | unavailable
  | noRecord
  | endOfList
  | badCommand
  | badOperand
  | badName
  | badMode
  | badState
  | notOnline
  | notPermitted
  | denied
  | notHolder
  | noWait
  | waitPending
  | deadlock
  | depthLimit
  | holdLimit
  | tableFull
  | standingFull
  | inUse
  | noticeFull
  | upgradePending
  deriving DecidableEq, Repr

/-- The contents of a result window: the code and D0 to D3 (R123). -/
structure Result where
  code : ResultCode
  d0 : Byte
  d1 : Byte
  d2 : Byte
  d3 : Byte
  deriving DecidableEq, Repr

/-- The eighteen commands that a code may name (R182). -/
inductive Command where
  | attach
  | detach
  | claim
  | release
  | upgrade
  | downgrade
  | renew
  | cancel
  | clearTaint
  | inspect
  | listFirst
  | listNext
  | define
  | amend
  | retire
  | configure
  | purge
  | stationInfo
  deriving DecidableEq, Repr

/-- What a CONFIGURE selector names (R161). -/
inductive Selector where
  | leaseClass (k : ClassId)
  | prescaler
  | tickRun
  | defaults
  deriving DecidableEq, Repr

/-- The views of INSPECT (R147); a waiter view is named by its position, counted from 1 at the head. -/
inductive View where
  | summary
  | waiter (position : Nat)
  | own
  deriving DecidableEq, Repr

/-- A station's lifecycle state (R93). -/
inductive Life where
  | offline
  | online
  | detaching
  | purging
  deriving DecidableEq, Repr

/-- A captured command: the code and the operand bytes S0 to S3 (R114). -/
structure Captured where
  code : Byte
  s0 : Byte
  s1 : Byte
  s2 : Byte
  s3 : Byte
  deriving DecidableEq, Repr

/-- The two kinds of walk (R99). -/
inductive WalkKind where
  | detach
  | purge
  deriving DecidableEq, Repr

/-- A walk record (R99): its target, the next slot to examine, the holdings released or revoked so far, and
the records tainted so far (of a detach, always 0). -/
structure Walk where
  kind : WalkKind
  target : StationId
  position : SlotId
  removed : Nat
  tainted : Nat
  deriving DecidableEq, Repr

/-- The command slot of a station (R112). -/
inductive CommandSlot where
  | empty
  | pending (c : Captured)
  | executing (c : Captured) (w : Walk)
  deriving DecidableEq, Repr

/-- The scope of a listing (R155). -/
inductive Scope where
  | own
  | all
  | standing
  | tainted
  deriving DecidableEq, Repr

/-- A set listing cursor: its scope and the next slot to examine, 64 when all have been examined (R152). -/
structure Cursor where
  scope : Scope
  index : Fin 65
  deriving DecidableEq, Repr

/-- The causes a fault record may hold (R126, R127). -/
inductive FaultCause where
  | unassignedOffset
  | writeToReadOnly
  | commandOverrun
  | commandInPurge
  deriving DecidableEq, Repr

/-- The fault record of a station (R126). -/
structure FaultRecord where
  cause : Option FaultCause
  detail : Byte
  further : Bool
  deriving DecidableEq, Repr

/-- Everything kept for one station: its context (chapters 5, 6 and 8) and its part of the notice unit (chapter 7). -/
structure Station where
  life : Life
  stage : Vector Byte 4
  slot : CommandSlot
  lastCode : Byte
  result : Result
  resultReady : Bool
  cursor : Option Cursor
  fault : FaultRecord
  notices : List Notice
  windowName : LockName
  windowDetail : Byte
  mask : BitVec 6
  noticeLost : Bool
  deriving DecidableEq, Repr

end Sys2Proof.Machine
end

