-- ==== Sys2Proof/Machine/Operands.lean ====
section
/-!
DEFINITION. Reading the captured bytes of a command: the command codes (R182) and the operand layouts of S0 to S3
(10 section 10.4, R179). Each reader answers none where the value is an operand error.
-/

namespace Sys2Proof.Machine

/-- The command a code names; none for the codes that name no command (R182). -/
def Command.ofCode (b : Byte) : Option Command :=
  match b.toNat with
  | 0x01 => some .attach
  | 0x02 => some .detach
  | 0x10 => some .claim
  | 0x11 => some .release
  | 0x12 => some .upgrade
  | 0x13 => some .downgrade
  | 0x14 => some .renew
  | 0x15 => some .cancel
  | 0x16 => some .clearTaint
  | 0x20 => some .inspect
  | 0x21 => some .listFirst
  | 0x22 => some .listNext
  | 0x30 => some .define
  | 0x31 => some .amend
  | 0x32 => some .retire
  | 0x33 => some .configure
  | 0x34 => some .purge
  | 0x35 => some .stationInfo
  | _ => none

/-- The six supervisor commands (R92). -/
def Command.supervisorOnly : Command → Bool
  | .define | .amend | .retire | .configure | .purge | .stationInfo => true
  | .attach | .detach | .claim | .release | .upgrade | .downgrade | .renew | .cancel | .clearTaint
  | .inspect | .listFirst | .listNext => false

/-- The command a captured code names (R120 step 1). -/
def Captured.command (c : Captured) : Option Command := Command.ofCode c.code

/-- The lock name of S0 and S1, high byte first (10 section 10.4). -/
def Captured.name (c : Captured) : LockName := c.s0 ++ c.s1

/-- The mode a CLAIM asks for: S2 is 0x00 or 0x01, any other value is an operand error (R23, R179). -/
def Captured.claimMode (c : Captured) : Option Mode :=
  if c.s2 = 0 then some .shared else if c.s2 = 1 then some .exclusive else none

/-- A record's options: class in bits 1-0, shared allowed in bit 2, and an operand error where any of bits 7-3
is 1; the other byte is the permit mask, of which every value is valid (R179). -/
def optionsOf (options permit : Byte) : Option Attributes :=
  if options.extractLsb' 3 5 = 0 then some ⟨(options.extractLsb' 0 2).toFin, options.getLsbD 2, permit⟩ else none

/-- The attributes that S2 and S3 of DEFINE, AMEND and CONFIGURE selector 6 carry (R161, R165, R169). -/
def Captured.attributes (c : Captured) : Option Attributes := optionsOf c.s2 c.s3

/-- The deadline a wait limit of 1 to 255 sets (R50). -/
def Deadline.ofLimit (limit : Byte) : Deadline :=
  if limit = 255 then .unlimited else .ticks limit.toNat

/-- A station number 0 to 7 in a byte (R104, R158). -/
def stationOf (b : Byte) : Option StationId :=
  if h : b.toNat < 8 then some ⟨b.toNat, h⟩ else none

/-- The station named by S3 of STATION INFO (R158). -/
def Captured.namedStation (c : Captured) : Option StationId := stationOf c.s3

/-- The target named by S3 of PURGE: 0, or a value above 7, is an operand error (R104 step 3). -/
def Captured.purgeTarget (c : Captured) : Option StationId :=
  if c.s3 = 0 then none else stationOf c.s3

/-- The view named by S3 of INSPECT (R147). -/
def Captured.view (c : Captured) : Option View :=
  if c.s3 = 0 then some .summary
  else if c.s3.toNat ≤ 8 then some (.waiter c.s3.toNat)
  else if c.s3.toNat = 9 then some .own
  else none

/-- The scope named by S2 of LIST FIRST (R153, R155). -/
def Captured.scope (c : Captured) : Option Scope :=
  match c.s2.toNat with
  | 0 => some .own
  | 1 => some .all
  | 2 => some .standing
  | 3 => some .tainted
  | _ => none

/-- What the selector S0 of CONFIGURE names; none for 7 to 255 (R161). -/
def Captured.selector (c : Captured) : Option Selector :=
  if h : c.s0.toNat < 4 then some (.leaseClass ⟨c.s0.toNat, h⟩)
  else match c.s0.toNat with
    | 4 => some .prescaler
    | 5 => some .tickRun
    | 6 => some .defaults
    | _ => none

/-- The class entry of CONFIGURE selectors 0 to 3: S2 length and S3 warn value, accepted when S3 is less than S2
or both are 0 (R161). -/
def Captured.classEntry (c : Captured) : Option LeaseClass :=
  if c.s3.toNat < c.s2.toNat ∨ (c.s2 = 0 ∧ c.s3 = 0) then some ⟨c.s2, c.s3⟩ else none

/-- The tick-run setting of CONFIGURE selector 5: S2 is 0 to stop and 1 to run (R161). -/
def Captured.runSetting (c : Captured) : Option Bool :=
  if c.s2 = 0 then some false else if c.s2 = 1 then some true else none

end Sys2Proof.Machine
end

