-- ==== Sys2Proof/Machine/Flags.lean ====
section
/-!
DEFINITION. The codings of every byte a station reads (10 sections 10.3, 10.5 and 10.6): states, modes, requests,
kinds, result codes, fault causes, the STATUS byte, the notice details and the coded result bytes. Fields are
written from bit 7 down to bit 0.
-/

namespace Sys2Proof.Machine

/-- A plain number in one byte (R176). -/
def byteOf (n : Nat) : Byte := BitVec.ofNat 8 n

/-- A flag as a plain number, 1 or 0 (R180). -/
def flagByte (b : Bool) : Byte := if b then 1 else 0

/-- The station state field of STATUS (R178). -/
def Life.code : Life → BitVec 2
  | .offline => 0
  | .online => 1
  | .detaching => 2
  | .purging => 3

/-- Mode of a holding: 0 SHARED, 1 EXCLUSIVE (R180). -/
def Mode.code : Mode → BitVec 1
  | .shared => 0
  | .exclusive => 1

/-- A mode as a whole result byte (R180). -/
def Mode.byte (m : Mode) : Byte := m.code.setWidth 8

/-- Request of a waiter entry: 0 SHARED, 1 EXCLUSIVE, 2 UPGRADE (R180). -/
def Request.code : Request → BitVec 2
  | .shared => 0
  | .exclusive => 1
  | .upgrade => 2

/-- The request of a claim wait in the mode claimed (R50). -/
def Request.ofMode : Mode → Request
  | .shared => .shared
  | .exclusive => .exclusive

/-- The mode held after a waiter's request is granted (R37). -/
def Request.granted : Request → Mode
  | .shared => .shared
  | .exclusive => .exclusive
  | .upgrade => .exclusive

/-- Derived mode of a record: 0 IDLE, 1 SHARED, 2 EXCLUSIVE (R180). -/
def DerivedMode.code : DerivedMode → BitVec 2
  | .idle => 0
  | .shared => 1
  | .exclusive => 2

/-- Kind of a record: 0 TRANSIENT, 1 STANDING (R180). -/
def Kind.code : Kind → BitVec 1
  | .transient => 0
  | .standing => 1

/-- The result codes (R182). -/
def ResultCode.byte : ResultCode → Byte
  | .none => 0x00
  | .done => 0x01
  | .granted => 0x02
  | .queued => 0x03
  | .unavailable => 0x04
  | .noRecord => 0x05
  | .endOfList => 0x06
  | .badCommand => 0x40
  | .badOperand => 0x41
  | .badName => 0x42
  | .badMode => 0x43
  | .badState => 0x44
  | .notOnline => 0x45
  | .notPermitted => 0x46
  | .denied => 0x47
  | .notHolder => 0x48
  | .noWait => 0x49
  | .waitPending => 0x4A
  | .deadlock => 0x4B
  | .depthLimit => 0x4C
  | .holdLimit => 0x4D
  | .tableFull => 0x4E
  | .standingFull => 0x4F
  | .inUse => 0x50
  | .noticeFull => 0x51
  | .upgradePending => 0x52

/-- A refusal is a code of 0x40 or above (R182). -/
def ResultCode.isRefusal (c : ResultCode) : Bool := decide (0x40 ≤ c.byte.toNat)

/-- The value a take returns for the kind, and the position of the kind's bit in the mask (R181). -/
def NoticeKind.code : NoticeKind → Nat
  | .granted => 1
  | .timedOut => 2
  | .withdrawn => 3
  | .revoked => 4
  | .warning => 5

/-- GRANTED, TIMED_OUT and WITHDRAWN end a wait (R129). -/
def NoticeKind.isWaitOutcome : NoticeKind → Bool
  | .granted | .timedOut | .withdrawn => true
  | .revoked | .warning => false

/-- The mask member of a notice kind: bit `code` of the six (R181). -/
def NoticeKind.bit (k : NoticeKind) : BitVec 6 := 1 <<< k.code

/-- The cause field of FAULT CAUSE (R177). -/
def FaultCause.code : FaultCause → BitVec 3
  | .unassignedOffset => 1
  | .writeToReadOnly => 2
  | .commandOverrun => 3
  | .commandInPurge => 4

/-- The byte read at FAULT CAUSE: FURTHER FAULTS in bit 7, the cause in bits 2-0 (R177). -/
def FaultRecord.causeByte (f : FaultRecord) : Byte :=
  BitVec.ofBool f.further ++ (0 : BitVec 4) ++ (match f.cause with | none => (0 : BitVec 3) | some c => c.code)

/-- The record is clear when the cause is none, the detail 0 and FURTHER FAULTS clear (R126). -/
def FaultRecord.cleared : FaultRecord := ⟨none, 0, false⟩

/-- The revoked station in three bits; 0 while the taint is clear (R180, R181). -/
def revokedCode (taint : Option StationId) : BitVec 3 :=
  match taint with
  | none => 0
  | some st => BitVec.ofNat 3 st.val

/-- Mode, taint flag and revoked station: the detail of a GRANTED notice (R181) and D3 of the own-holding view (R180). -/
def holdingByte (m : Mode) (taint : Option StationId) : Byte :=
  (0 : BitVec 3) ++ revokedCode taint ++ BitVec.ofBool taint.isSome ++ m.code

/-- The detail of a GRANTED notice (R130, R181). -/
def grantedDetail (m : Mode) (taint : Option StationId) : Byte := holdingByte m taint

/-- The detail of a TIMED_OUT notice (R130, R181). -/
def timedOutDetail (r : Request) : Byte := r.code.setWidth 8

/-- The cause bit of a WITHDRAWN notice: 0 LEASE, 1 PERMIT (R181). -/
def WithdrawalCause.code : WithdrawalCause → BitVec 1
  | .lease => 0
  | .permit => 1

/-- The detail of a WITHDRAWN notice (R130, R181). -/
def withdrawnDetail (cause : WithdrawalCause) (r : Request) : Byte :=
  (0 : BitVec 5) ++ cause.code ++ r.code

/-- The detail of a REVOKED notice (R130, R181). -/
def revokedDetail (m : Mode) : Byte := m.byte

/-- The lease remaining as a byte, 0 where the holding is unleased (R75). -/
def leaseByte (lease : Option Nat) : Byte := byteOf (lease.getD 0)

/-- The deadline remaining as a byte, 255 for UNLIMITED (R180). -/
def Deadline.byte : Deadline → Byte
  | .ticks n => byteOf n
  | .unlimited => 255

/-- Class and shared-allowed in the layout of S2 (R179, R164). -/
def Attributes.optionByte (a : Attributes) : Byte :=
  (0 : BitVec 5) ++ BitVec.ofBool a.sharedAllowed ++ BitVec.ofNat 2 a.leaseClass.val

/-- D0 of the summary view (R149, R180). -/
def summaryByte (kind : Kind) (taint : Option StationId) (mode : DerivedMode) (a : Attributes) : Byte :=
  (0 : BitVec 1) ++ kind.code ++ BitVec.ofBool taint.isSome ++ mode.code ++ BitVec.ofBool a.sharedAllowed
    ++ BitVec.ofNat 2 a.leaseClass.val

/-- D2 of the summary view: the upgrade-waiter flag and the waiter count (R149, R180). -/
def waitersByte (upgradeWaiter : Bool) (count : Nat) : Byte :=
  (0 : BitVec 3) ++ BitVec.ofBool upgradeWaiter ++ BitVec.ofNat 4 count

/-- A set of stations as a byte: bit n is 1 when station n is a member (R180). -/
def stationSet (member : StationId → Bool) : Byte :=
  BitVec.ofBool (member 7) ++ BitVec.ofBool (member 6) ++ BitVec.ofBool (member 5) ++ BitVec.ofBool (member 4)
    ++ BitVec.ofBool (member 3) ++ BitVec.ofBool (member 2) ++ BitVec.ofBool (member 1) ++ BitVec.ofBool (member 0)

/-- The STATUS byte (R178). -/
def statusByte (fault lost wait line ready busy : Bool) (life : Life) : Byte :=
  BitVec.ofBool fault ++ BitVec.ofBool lost ++ BitVec.ofBool wait ++ BitVec.ofBool line ++ BitVec.ofBool ready
    ++ BitVec.ofBool busy ++ life.code

/-- A kind's member is enabled in the mask (R141). -/
def maskEnables (mask : BitVec 6) (k : NoticeKind) : Bool := mask.getLsbD k.code

/-- The RESULT READY member of the mask (R141, R181: bit 0). -/
def maskEnablesReady (mask : BitVec 6) : Bool := mask.getLsbD 0

/-- A write to MASK SET enables the members written as 1; bits 7-6 are ignored (R141). -/
def maskSetBy (mask : BitVec 6) (v : Byte) : BitVec 6 := mask ||| v.setWidth 6

/-- A write to MASK CLEAR disables the members written as 1 (R141). -/
def maskClearBy (mask : BitVec 6) (v : Byte) : BitVec 6 := mask &&& ~~~(v.setWidth 6)

/-- PENDING KINDS: one bit for each kind present, and RESULT READY in bit 0 (R142). -/
def pendingKindsOf (notices : List Notice) (ready : Bool) : BitVec 6 :=
  BitVec.ofBool (notices.any (·.kind == .warning)) ++ BitVec.ofBool (notices.any (·.kind == .revoked))
    ++ BitVec.ofBool (notices.any (·.kind == .withdrawn)) ++ BitVec.ofBool (notices.any (·.kind == .timedOut))
    ++ BitVec.ofBool (notices.any (·.kind == .granted)) ++ BitVec.ofBool ready

end Sys2Proof.Machine
end

