-- ==== Sys2Proof/Machine/State.lean ====
section
/-!
DEFINITION. The state of the 4180 as plain data, its value after reset, and the reasons a step could stop.
-/

namespace Sys2Proof.Machine

/-- The state of the part. The free-slot pool (R1), the derived modes (R5), the waits (R10) and the notice lines
(R143) are read off these fields and are not stored again.
`dataPins` and `pending` are the model's own fields (log entries 7 and 1). -/
structure State where
  /-- The 64 record slots, each free or holding one record (R1). -/
  slots : Vector (Option Record) 64
  /-- The number of records in which each station has a holding (R9). -/
  holdingCounts : Vector Nat 8
  /-- The number of STANDING records (R16). -/
  standingCount : Nat
  /-- The attributes a new transient record is given (R15). -/
  defaults : Attributes
  /-- The lease unit (R70). -/
  lease : LeaseUnit
  /-- The eight station contexts (R91). -/
  stations : Vector Station 8
  /-- The station at which the arbiter begins its search (R118). -/
  turnPointer : StationId
  /-- The level of the RESET pin: true while it is high (R183). -/
  resetPin : Bool
  /-- What the last access drove on D7-D0: the byte of a read, or nothing (R173). -/
  dataPins : Option Byte
  /-- The commands that are waiting, first in, first out. -/
  pending : List Instr
  deriving DecidableEq, Repr

/-- A station context after reset (R111). -/
def Station.reset : Station where
  life := .offline
  stage := Vector.replicate 4 0
  slot := .empty
  lastCode := 0
  result := ⟨.none, 0, 0, 0, 0⟩
  resultReady := false
  cursor := none
  fault := ⟨none, 0, false⟩
  notices := []
  windowName := 0
  windowDetail := 0
  mask := 0
  noticeLost := false

/-- The machine right after reset: the table of 01 section 1.8 (R1, R9, R15, R16), the lease unit of R70, the
contexts of R111, the turn pointer of R118, with RESET low again (R183) and nothing on the data pins. -/
def State.reset : State where
  slots := Vector.replicate 64 none
  holdingCounts := Vector.replicate 8 0
  standingCount := 0
  defaults := ⟨0, true, 0xFF⟩
  lease := ⟨0xFF, 0, false, Vector.replicate 4 ⟨0, 0⟩⟩
  stations := Vector.replicate 8 Station.reset
  turnPointer := 0
  resetPin := false
  dataPins := none
  pending := []

/-- The reasons for which the machine could stop with a fault: there are none, since no rule of the spec stops the
part. (The "fault record" of R126 is state, in `Station.fault`.) Nothing raises one, so it is neither safe nor unsafe. -/
inductive Fault where
  deriving DecidableEq, Repr

/-- The reasons for which a command could be refused by the model. -/
inductive Refusal where
  /-- Raised by an arm of `exec` whose command has no meaning yet; no arm raises it now. Safe: the model stops
  where the part goes on. -/
  | notModelled (mnemonic : String)
  deriving DecidableEq, Repr

/-- What a command answers. -/
abbrev Answer := Host.Outcome State Fault Refusal

end Sys2Proof.Machine
end

