-- ==== Sys2Proof/Machine/Ops.lean ====
section
/-!
DEFINITION. The named operations over the lock table, the station contexts and the notice queues that every
command shares: finding and changing records, holdings and waits, admitting notices, the grant rule and the
retirement test, posting results and recording faults. Every update of the state goes through one of these.
-/

namespace Sys2Proof.Machine

/-- The slots in ascending order. -/
def allSlots : List SlotId := List.finRange 64

/-- The stations in ascending order. -/
def allStations : List StationId := List.finRange 8

/-! ### Station contexts -/

/-- The context of a station (R91). -/
def State.ctx (s : State) (st : StationId) : Station := s.stations[st]

/-- A change of one station's context. -/
def State.modifyCtx (s : State) (st : StationId) (f : Station → Station) : State :=
  { s with stations := s.stations.set st (f (s.ctx st)) }

/-- The station is ONLINE. -/
def State.online (s : State) (st : StationId) : Bool := (s.ctx st).life == .online

/-- A station's holding count (R9). -/
def State.holdingCount (s : State) (st : StationId) : Nat := s.holdingCounts[st]

/-- A change of one station's holding count. -/
def State.setCount (s : State) (st : StationId) (n : Nat) : State :=
  { s with holdingCounts := s.holdingCounts.set st n }

/-- A new holding adds 1 to the station's count (R9). -/
def State.raiseCount (s : State) (st : StationId) : State := s.setCount st (s.holdingCount st + 1)

/-- The removal of a holding subtracts 1 from the station's count (R9). -/
def State.lowerCount (s : State) (st : StationId) : State := s.setCount st (s.holdingCount st - 1)

/-! ### Records -/

/-- The record in a slot, or none where the slot is free (R1). -/
def State.record (s : State) (i : SlotId) : Option Record := s.slots[i]

/-- A change of one slot. -/
def State.setRecord (s : State) (i : SlotId) (r : Option Record) : State :=
  { s with slots := s.slots.set i r }

/-- The record with a name, and its slot; name 0 never matches (R1, R2). -/
def State.lookup (s : State) (n : LockName) : Option (SlotId × Record) :=
  if n = 0 then none
  else allSlots.findSome? fun i =>
    match s.record i with
    | some r => if r.name = n then some (i, r) else none
    | none => none

/-- The lowest-numbered slot of the free-slot pool (R12); none where the pool is empty. -/
def State.freeSlot (s : State) : Option SlotId := allSlots.find? fun i => (s.record i).isNone

/-- The size of the free-slot pool (R1). -/
def State.poolSize (s : State) : Nat := allSlots.countP fun i => (s.record i).isNone

/-- A station's holding in a record (R4). -/
def Record.holding (r : Record) (st : StationId) : Option Holding := r.holders[st]

/-- A change of one station's holding in a record. -/
def Record.setHolding (r : Record) (st : StationId) (h : Option Holding) : Record :=
  { r with holders := r.holders.set st h }

/-- The station has a holding in the record. -/
def Record.holds (r : Record) (st : StationId) : Bool := (r.holding st).isSome

/-- The record has no holders (R5). -/
def Record.idle (r : Record) : Bool := allStations.all fun a => !r.holds a

/-- The record has an exclusive holding (R5). -/
def Record.exclusivelyHeld (r : Record) : Bool :=
  allStations.any fun a => (r.holding a).any (·.mode == .exclusive)

/-- The record has a shared holding. -/
def Record.sharedHeld (r : Record) : Bool :=
  allStations.any fun a => (r.holding a).any (·.mode == .shared)

/-- The station is the record's only holder (R36, R47). -/
def Record.soleHolder (r : Record) (st : StationId) : Bool :=
  r.holds st && allStations.all fun a => a == st || !r.holds a

/-- The derived mode of a record (R5). -/
def Record.derivedMode (r : Record) : DerivedMode :=
  if r.idle then .idle else if r.exclusivelyHeld then .exclusive else .shared

/-- The station is in the record's permit mask (R8). -/
def Attributes.permits (a : Attributes) (st : StationId) : Bool := a.permit.getLsbD st.val

/-- The station has an entry in the record's queue (R6). -/
def Record.waits (r : Record) (st : StationId) : Bool := r.queue.any (·.station == st)

/-- The station has an upgrade wait on the record (R54). -/
def Record.upgradeWaits (r : Record) (st : StationId) : Bool :=
  r.queue.any fun w => w.station == st && w.request == .upgrade

/-- The station's entry leaves the queue; every entry behind it moves forward (R6). -/
def Record.dequeue (r : Record) (st : StationId) : Record :=
  { r with queue := r.queue.filter (·.station != st) }

/-! ### Leases -/

/-- The entry of a lease class (R74). -/
def State.leaseClass (s : State) (k : ClassId) : LeaseClass := s.lease.classes[k]

/-- The lease a length loads: absent when the length is 0 (R75, R76). -/
def fullLease (length : Byte) : Option Nat := if length = 0 then none else some length.toNat

/-- The lease that a load or reload of a holding of a class gives (R76, R77). -/
def State.classLease (s : State) (k : ClassId) : Option Nat := fullLease (s.leaseClass k).length

/-- The refit of one lease to a length (R85). -/
def refitLease (length : Byte) (lease : Option Nat) : Option Nat :=
  if length = 0 then none
  else match lease with
    | none => some length.toNat
    | some c => some (min c length.toNat)

/-- A change of every holding of a record, station by station. -/
def Record.mapHoldings (r : Record) (f : StationId → Holding → Option Holding) : Record :=
  let at' := fun st : StationId => (r.holding st).bind (f st)
  { r with holders := #v[at' 0, at' 1, at' 2, at' 3, at' 4, at' 5, at' 6, at' 7] }

/-- The refit of every holding of a record (R85, R86). -/
def Record.refit (r : Record) (length : Byte) : Record :=
  r.mapHoldings fun _ h => some { h with lease := refitLease length h.lease }

/-! ### Waits -/

/-- A station's wait: the slot and record waited on, and the entry (R10). -/
def State.waitOf (s : State) (st : StationId) : Option (SlotId × Record × Waiter) :=
  allSlots.findSome? fun i =>
    match s.record i with
    | some r => (r.queue.find? (·.station == st)).map fun w => (i, r, w)
    | none => none

/-- WAIT OUTSTANDING: the station has a wait (R10). -/
def State.hasWait (s : State) (st : StationId) : Bool := (s.waitOf st).isSome

/-- The station has a claim wait (R10). -/
def State.hasClaimWait (s : State) (st : StationId) : Bool :=
  (s.waitOf st).any fun x => x.2.2.request != .upgrade

/-- The name the station waits on, 0 when it has no wait (R10). -/
def State.waitName (s : State) (st : StationId) : LockName :=
  match s.waitOf st with
  | some (_, r, _) => r.name
  | none => 0

/-- A station's commitment: its holding count, plus 1 if it has a claim wait (R10, R31). -/
def State.commitment (s : State) (st : StationId) : Nat :=
  s.holdingCount st + if s.hasClaimWait st then 1 else 0

/-! ### Notices -/

/-- The most notices a REVOKED or WARNING may find and still be admitted: it must find fewer than this (R134). -/
def State.noticeRoom (s : State) (st : StationId) : Nat :=
  if s.hasWait st then Config.noticeCapacity - 1 else Config.noticeCapacity

/-- A notice joins the tail of a station's queue (R131). -/
def State.pushNotice (s : State) (st : StationId) (n : Notice) : State :=
  s.modifyCtx st fun x => { x with notices := x.notices ++ [n] }

/-- A notice comes to enter a station's queue: it is discarded if the station is not ONLINE (R133), and admitted
or discarded by the admission rule otherwise (R134); the discard of a REVOKED or WARNING sets NOTICE LOST (R136). -/
def State.queueNotice (s : State) (st : StationId) (n : Notice) : State :=
  if s.online st then
    if n.kind.isWaitOutcome || decide ((s.ctx st).notices.length < s.noticeRoom st) then s.pushNotice st n
    else s.modifyCtx st fun x => { x with noticeLost := true }
  else s

/-- Several notices enter, one after the other. -/
def State.queueNotices (s : State) (ns : List (StationId × Notice)) : State :=
  ns.foldl (fun s x => s.queueNotice x.1 x.2) s

/-! ### The grant rule and the retirement test -/

/-- Whether the entry at the head of the queue is grantable (R36). -/
def Record.grantable (r : Record) (w : Waiter) : Bool :=
  match w.request with
  | .exclusive => r.idle
  | .shared => !r.exclusivelyHeld
  | .upgrade => r.soleHolder w.station

/-- The record after a waiter is granted: a new holding of depth 1 for a claim, the holding made EXCLUSIVE for
an upgrade, with the lease loaded or reloaded (R37). -/
def Record.grantWaiter (r : Record) (full : Option Nat) (w : Waiter) : Record :=
  match w.request with
  | .upgrade => r.setHolding w.station ((r.holding w.station).map fun h => { h with mode := .exclusive, lease := full })
  | .shared => r.setHolding w.station (some ⟨.shared, 1, full⟩)
  | .exclusive => r.setHolding w.station (some ⟨.exclusive, 1, full⟩)

/-- One run of the grant rule over a queue: grantable heads are granted, one after the other, until the queue is
empty or its head is not grantable (R36). Answers the record and the batch of waiters granted (R38). -/
def grantRun (full : Option Nat) : List Waiter → Record → Record × List Waiter
  | [], r => ({ r with queue := [] }, [])
  | w :: ws, r =>
    if r.grantable w then
      let x := grantRun full ws (r.grantWaiter full w)
      (x.1, w :: x.2)
    else ({ r with queue := w :: ws }, [])

/-- The GRANTED notice of a waiter (R37, R130). -/
def Record.grantedNotice (r : Record) (w : Waiter) : Notice :=
  ⟨.granted, r.name, grantedDetail w.request.granted r.taint⟩

/-- What the grant of a waiter does outside the record: the holding count of a claim waiter rises by 1, and the
GRANTED notice is queued (R37). -/
def State.announceGrant (r : Record) (s : State) (w : Waiter) : State :=
  (if w.request = .upgrade then s else s.raiseCount w.station).queueNotice w.station (r.grantedNotice w)

/-- A transient record with no holders, an empty queue and its taint clear is retired (R17). -/
def Record.retires (r : Record) : Bool :=
  r.kind == .transient && r.idle && r.queue.isEmpty && r.taint.isNone

/-- The retirement test on a slot (R17, R40). -/
def State.retirementTest (s : State) (i : SlotId) : State :=
  match s.record i with
  | some r => if r.retires then s.setRecord i none else s
  | none => s

/-- What follows a change that removed a holding or a waiter of the record or lowered a mode: one run of the grant
rule, the notices of its grants, and the retirement test, in that order (R35, R40). -/
def State.settle (s : State) (i : SlotId) : State :=
  match s.record i with
  | none => s
  | some r =>
    let x := grantRun (s.classLease r.attrs.leaseClass) r.queue r
    (x.2.foldl (State.announceGrant x.1) (s.setRecord i (some x.1))).retirementTest i

/-- A station's holding in the record of a slot is removed, whatever its depth (R4, R9). -/
def State.dropHolding (s : State) (i : SlotId) (r : Record) (st : StationId) : State :=
  (s.setRecord i (some (r.setHolding st none))).lowerCount st

/-- A new holding of depth 1 enters the record of a slot, its lease loaded (R32). -/
def State.grantAtOnce (s : State) (i : SlotId) (r : Record) (st : StationId) (m : Mode) : State :=
  (s.setRecord i (some (r.setHolding st (some ⟨m, 1, s.classLease r.attrs.leaseClass⟩)))).raiseCount st

/-- A station's wait, if it has one, ends without a notice: its entry leaves the queue and the grant rule runs on
the record (R58, R98, R106). -/
def State.endWait (s : State) (st : StationId) : State :=
  match s.waitOf st with
  | none => s
  | some (i, r, _) => (s.setRecord i (some (r.dequeue st))).settle i

/-! ### Results and faults -/

/-- A result with only a code: D0 to D3 are 0 (R25, R123). -/
def Result.bare (code : ResultCode) : Result := ⟨code, 0, 0, 0, 0⟩

/-- Completion: the result window is written, RESULT READY is set and the slot becomes EMPTY (R123). -/
def State.complete (s : State) (st : StationId) (r : Result) : State :=
  s.modifyCtx st fun x => { x with result := r, resultReady := true, slot := .empty }

/-- A fault enters a fault record: stored where the record is clear, else FURTHER FAULTS is set (R126). -/
def FaultRecord.add (f : FaultRecord) (cause : FaultCause) (detail : Byte) : FaultRecord :=
  match f.cause with
  | none => ⟨some cause, detail, f.further⟩
  | some _ => { f with further := true }

/-- A fault of a station is recorded (R126). -/
def State.recordFault (s : State) (st : StationId) (cause : FaultCause) (detail : Byte) : State :=
  s.modifyCtx st fun x => { x with fault := x.fault.add cause detail }

end Sys2Proof.Machine
end

