-- ==== Sys2Proof/Machine/Engine.lean ====
section
/-!
DEFINITION. The command engine: the turn arbiter (R118), the turn of a captured command with the three checks that
come before its own (R120), and the turn of a walk (R122).
-/

namespace Sys2Proof.Machine

/-- The slot is PENDING or EXECUTING: BUSY (R112, R117). -/
def CommandSlot.hasWork : CommandSlot → Bool
  | .empty => false
  | .pending _ => true
  | .executing _ _ => true

/-- The order in which the arbiter examines the slots: upward from the turn pointer, wrapping from 7 to 0 (R118). -/
def rotation (p : StationId) : List StationId := allStations.map (p + ·)

/-- The station to whose slot the next turn goes: the first in the rotation whose slot has work (R118). -/
def State.arbiter (s : State) : Option StationId :=
  (rotation s.turnPointer).find? fun st => (s.ctx st).slot.hasWork

/-- The turn ends: the pointer is set to the station after the one served (R118). -/
def State.endTurn (s : State) (st : StationId) : State := { s with turnPointer := st + 1 }

/-- The captured command that the next turn executes, if that turn goes to the station and its slot is PENDING. -/
def State.pendingTurn (s : State) (st : StationId) : Option Captured :=
  if s.arbiter = some st then
    match (s.ctx st).slot with
    | .pending c => some c
    | .empty => none
    | .executing _ _ => none
  else none

/-- The walk of which the next turn takes a step, if that turn goes to the station and its slot is EXECUTING. -/
def State.walkTurn (s : State) (st : StationId) : Option (Captured × Walk) :=
  if s.arbiter = some st then
    match (s.ctx st).slot with
    | .executing c w => some (c, w)
    | .empty => none
    | .pending _ => none
  else none

/-- The refusals that come before any check of the command's own, for a code that names a command: NOT_ONLINE, then
NOT_PERMITTED (R120 steps 2 and 3). -/
def State.entryRefusal (s : State) (st : StationId) (cmd : Command) : Option ResultCode :=
  if cmd ≠ .attach ∧ s.online st = false then some .notOnline
  else if cmd.supervisorOnly = true ∧ st ≠ Config.supervisor then some .notPermitted
  else none

/-- Nothing happens while RESET is high (R183). -/
def unlessReset (s : State) (f : State → State) : Answer := .next (if s.resetPin then s else f s)

/-- One turn of a captured command of the given name, for which `mine` picks the row's captured operands: the checks of
R120, then the command's own work, and the pointer moves on. Where the arbiter does not give the next turn to such a
command there is no such event, and the state stays as it is (log entry 2). -/
def commandTurn (st : StationId) (cmd : Command) (mine : Captured → Bool) (own : Captured → State → State)
    (s : State) : State :=
  match s.pendingTurn st with
  | none => s
  | some c =>
    if c.command = some cmd ∧ mine c = true then
      (match s.entryRefusal st cmd with
        | some code => s.complete st (.bare code)
        | none => own c s).endTurn st
    else s

/-- The work of an ordinary command is its change of the state and its result, posted at completion (R121, R123). -/
def answer (st : StationId) (x : State × Result) : State := x.1.complete st x.2

/-- An ordinary command: executed whole in its one turn (R121). -/
def ordinaryTurn (st : StationId) (cmd : Command) (mine : Captured → Bool) (own : Captured → State → State × Result)
    (s : State) : State :=
  commandTurn st cmd mine (fun c s => answer st (own c s)) s

/-- Every captured operand: for the rows that stand for their command whatever S0 to S3 are. -/
def anyOperands (_ : Captured) : Bool := true

/-- The turn of a captured code that names no command (R120 step 1). -/
def badCommandTurn (st : StationId) (s : State) : State :=
  match s.pendingTurn st with
  | none => s
  | some c => if c.command = none then (s.complete st (.bare .badCommand)).endTurn st else s

/-- BAD_COMMAND (R120). -/
def execBadCommand (st : StationId) (s : State) : Answer := unlessReset s (badCommandTurn st)

end Sys2Proof.Machine
end

