-- ==== Sys2Proof/Machine/Waits.lean ====
section
/-!
DEFINITION. The stands-before relation as it is read off the table (R60), the deadlock probe (R62 to R64), and the
entry of a wait (R51, R53).
-/

namespace Sys2Proof.Machine

/-- The entries ahead of a station's entry in a record's queue (R60). -/
def Record.aheadOf (r : Record) (st : StationId) : List Waiter := r.queue.takeWhile (·.station != st)

/-- Station a stands before station b, which waits on the record: a holds it and is not b, or a's entry is ahead
of b's (R60). -/
def Record.standsBefore (r : Record) (a b : StationId) : Bool :=
  (r.holds a && a != b) || (r.aheadOf b).any (·.station == a)

/-- The stations standing before a station, in ascending order; none where it has no wait (R60, R63 step 3). -/
def State.standingBefore (s : State) (x : StationId) : List StationId :=
  match s.waitOf x with
  | none => []
  | some (_, r, _) => allStations.filter fun a => r.standsBefore a x

/-- The stations of a list that are not yet visited are searched in turn, until a search reaches the requester (R63
step 5). The answer is whether it was reached, and the stations visited. -/
def searchEach (search : StationId → List StationId → Bool × List StationId) :
    List StationId → List StationId → Bool × List StationId
  | [], visited => (false, visited)
  | y :: ys, visited =>
    if visited.contains y then searchEach search ys visited
    else
      let x := search y visited
      if x.1 then x else searchEach search ys x.2

/-- The search from one station (R63). The fuel bounds the depth: a station is visited at most once, so eight
levels are never exhausted before the search ends. -/
def searchFrom (s : State) (requester : StationId) : Nat → StationId → List StationId → Bool × List StationId
  | 0, _, visited => (false, visited)
  | fuel + 1, x, visited =>
    let before := s.standingBefore x
    if before.contains requester then (true, x :: visited)
    else searchEach (searchFrom s requester fuel) before (x :: visited)

/-- The direct blockers are searched in turn; the answer is the one whose search reached the requester (R63, R64). -/
def probeEach (s : State) (requester : StationId) : List StationId → List StationId → Option StationId
  | [], _ => none
  | b :: bs, visited =>
    if visited.contains b then probeEach s requester bs visited
    else
      let x := searchFrom s requester 8 b visited
      if x.1 then some b else probeEach s requester bs x.2

/-- The direct blockers of a claim on a record: its holders and the stations in its queue, ascending (R62). -/
def Record.claimBlockers (r : Record) : List StationId := allStations.filter fun a => r.holds a || r.waits a

/-- The direct blockers of an upgrade by a holder of the record: the other holders, ascending (R62). -/
def Record.upgradeBlockers (r : Record) (st : StationId) : List StationId :=
  allStations.filter fun a => r.holds a && a != st

/-- The deadlock probe: the direct blocker through which a chain leads back to the requester, if there is one (R63,
R64). -/
def State.probe (s : State) (requester : StationId) (blockers : List StationId) : Option StationId :=
  probeEach s requester blockers []

/-- The tests that refuse a wait, in order: WAIT_PENDING, NOTICE_FULL, DEADLOCK with D0 the blocker (R24 steps 10 to
12, R47 steps 7 to 9). -/
def State.waitRefusal (s : State) (st : StationId) (blockers : List StationId) : Option Result :=
  if s.hasWait st then some (.bare .waitPending)
  else if Config.noticeCapacity ≤ (s.ctx st).notices.length then some (.bare .noticeFull)
  else (s.probe st blockers).map fun b => ⟨.deadlock, byteOf b.val, 0, 0, 0⟩

/-- A claim wait is entered at the tail (R51). -/
def State.enterClaimWait (s : State) (i : SlotId) (r : Record) (w : Waiter) : State :=
  s.setRecord i (some { r with queue := r.queue ++ [w] })

/-- An upgrade wait is entered at the head (R53). -/
def State.enterUpgradeWait (s : State) (i : SlotId) (r : Record) (w : Waiter) : State :=
  s.setRecord i (some { r with queue := w :: r.queue })

end Sys2Proof.Machine
end

