-- ==== Sys2Proof/Machine/Claiming.lean ====
section
/-!
DEFINITION. CLAIM, RELEASE, DOWNGRADE and UPGRADE (chapter 2), and CANCEL (R58). Each command is a function from the
captured operands and the state to the new state and its result; the checks stand in the order of the rule's table.
-/

namespace Sys2Proof.Machine

/-- The GRANTED result: depth, mode, taint flag and lease remaining after the grant (R33). -/
def grantedResult (h : Holding) (taint : Option StationId) : Result :=
  ⟨.granted, byteOf h.depth, h.mode.byte, flagByte taint.isSome, leaseByte h.lease⟩

/-! ### CLAIM -/

/-- A claim's request is grantable now for a station that does not hold the record: the queue is empty, and there is
no holder (EXCLUSIVE) or no exclusive holder (SHARED) (R32). -/
def Record.grantableNow (r : Record) (m : Mode) : Bool :=
  r.queue.isEmpty && (match m with
    | .exclusive => r.idle
    | .shared => !r.exclusivelyHeld)

/-- The transient record that a claim of an absent name creates, still without its holder (R13). -/
def State.newTransient (s : State) (n : LockName) : Record :=
  ⟨n, .transient, s.defaults, Vector.replicate 8 none, [], none⟩

/-- Steps 3a to 3d of a claim: no record has the name (R24, R26). -/
def claimAbsent (s : State) (st : StationId) (n : LockName) (m : Mode) : State × Result :=
  match s.freeSlot with
  | none => (s, .bare .tableFull)
  | some i =>
    if Config.holdLimit ≤ s.commitment st then (s, .bare .holdLimit)
    else if m = .shared ∧ s.defaults.sharedAllowed = false then (s, .bare .badMode)
    else (s.grantAtOnce i (s.newTransient n) st m,
      grantedResult ⟨m, 1, s.classLease s.defaults.leaseClass⟩ none)

/-- Steps 6a to 6c of a claim: the station holds the record (R24, R29). -/
def claimHeld (s : State) (st : StationId) (m : Mode) (i : SlotId) (r : Record) (h : Holding) : State × Result :=
  if h.mode = .shared ∧ m = .exclusive then (s, .bare .badMode)
  else if Config.depthLimit ≤ h.depth then (s, .bare .depthLimit)
  else
    let h' : Holding := { h with depth := h.depth + 1, lease := s.classLease r.attrs.leaseClass }
    (s.setRecord i (some (r.setHolding st (some h'))), grantedResult h' r.taint)

/-- Steps 7 to 13 of a claim: the station does not hold the record (R24, R32, R34). -/
def claimNew (s : State) (st : StationId) (m : Mode) (limit : Byte) (i : SlotId) (r : Record) : State × Result :=
  if Config.holdLimit ≤ s.commitment st then (s, .bare .holdLimit)
  else if r.grantableNow m then
    (s.grantAtOnce i r st m, grantedResult ⟨m, 1, s.classLease r.attrs.leaseClass⟩ r.taint)
  else if limit = 0 then (s, .bare .unavailable)
  else match s.waitRefusal st r.claimBlockers with
    | some refusal => (s, refusal)
    | none =>
      (s.enterClaimWait i r ⟨st, Request.ofMode m, Deadline.ofLimit limit⟩,
        ⟨.queued, byteOf (r.queue.length + 1), 0, 0, 0⟩)

/-- CLAIM at its turn (R24). -/
def claimCommand (st : StationId) (c : Captured) (s : State) : State × Result :=
  match c.claimMode with
  | none => (s, .bare .badOperand)
  | some m =>
    if c.name = 0 then (s, .bare .badName)
    else match s.lookup c.name with
      | none => claimAbsent s st c.name m
      | some (i, r) =>
        if r.attrs.permits st = false then (s, .bare .denied)
        else if m = .shared ∧ r.attrs.sharedAllowed = false then (s, .bare .badMode)
        else match r.holding st with
          | some h => claimHeld s st m i r h
          | none => claimNew s st m c.s3 i r

/-- CLAIM (R24). -/
def execClaim (st : StationId) (s : State) : Answer :=
  unlessReset s (ordinaryTurn st .claim anyOperands (claimCommand st))

/-! ### RELEASE, DOWNGRADE and UPGRADE -/

/-- The caller's holding under a name: the slot, the record and the holding. -/
def State.holdingUnder (s : State) (st : StationId) (n : LockName) : Option (SlotId × Record × Holding) :=
  match s.lookup n with
  | none => none
  | some (i, r) => (r.holding st).map fun h => (i, r, h)

/-- RELEASE at its turn (R41, R42): BAD_NAME, NOT_HOLDER, UPGRADE_PENDING, else the depth falls by 1 and the holding
is removed at depth 0. -/
def releaseCommand (st : StationId) (c : Captured) (s : State) : State × Result :=
  if c.name = 0 then (s, .bare .badName)
  else match s.holdingUnder st c.name with
    | none => (s, .bare .notHolder)
    | some (i, r, h) =>
      if h.depth ≤ 1 ∧ r.upgradeWaits st = true then (s, .bare .upgradePending)
      else if h.depth ≤ 1 then ((s.dropHolding i r st).settle i, .bare .done)
      else (s.setRecord i (some (r.setHolding st (some { h with depth := h.depth - 1 }))),
        ⟨.done, byteOf (h.depth - 1), 0, 0, 0⟩)

/-- RELEASE (R42). -/
def execRelease (st : StationId) (s : State) : Answer :=
  unlessReset s (ordinaryTurn st .release anyOperands (releaseCommand st))

/-- DOWNGRADE at its turn (R45, R46). -/
def downgradeCommand (st : StationId) (c : Captured) (s : State) : State × Result :=
  if c.name = 0 then (s, .bare .badName)
  else match s.holdingUnder st c.name with
    | none => (s, .bare .notHolder)
    | some (i, r, h) =>
      if h.mode = .shared then (s, .bare .badMode)
      else if r.attrs.sharedAllowed = false then (s, .bare .badMode)
      else ((s.setRecord i (some (r.setHolding st (some { h with mode := .shared })))).settle i,
        ⟨.done, byteOf h.depth, 0, 0, 0⟩)

/-- DOWNGRADE (R46). -/
def execDowngrade (st : StationId) (s : State) : Answer :=
  unlessReset s (ordinaryTurn st .downgrade anyOperands (downgradeCommand st))

/-- UPGRADE at its turn (R47, R48, R53). -/
def upgradeCommand (st : StationId) (c : Captured) (s : State) : State × Result :=
  if c.name = 0 then (s, .bare .badName)
  else match s.holdingUnder st c.name with
    | none => (s, .bare .notHolder)
    | some (i, r, h) =>
      if r.attrs.permits st = false then (s, .bare .denied)
      else if h.mode = .exclusive then (s, .bare .badMode)
      else if r.soleHolder st then
        let h' : Holding := { h with mode := .exclusive, lease := s.classLease r.attrs.leaseClass }
        (s.setRecord i (some (r.setHolding st (some h'))), grantedResult h' r.taint)
      else if c.s3 = 0 then (s, .bare .unavailable)
      else match s.waitRefusal st (r.upgradeBlockers st) with
        | some refusal => (s, refusal)
        | none =>
          (s.enterUpgradeWait i r ⟨st, .upgrade, Deadline.ofLimit c.s3⟩, ⟨.queued, 1, 0, 0, 0⟩)

/-- UPGRADE (R47). -/
def execUpgrade (st : StationId) (s : State) : Answer :=
  unlessReset s (ordinaryTurn st .upgrade anyOperands (upgradeCommand st))

/-! ### CANCEL -/

/-- CANCEL at its turn (R58). -/
def cancelCommand (st : StationId) (_c : Captured) (s : State) : State × Result :=
  if s.hasWait st then (s.endWait st, .bare .done) else (s, .bare .noWait)

/-- CANCEL (R58). -/
def execCancel (st : StationId) (s : State) : Answer :=
  unlessReset s (ordinaryTurn st .cancel anyOperands (cancelCommand st))

end Sys2Proof.Machine
end

