-- ==== Sys2Proof/Machine/Leases.lean ====
section
/-!
DEFINITION. RENEW and CLEAR TAINT (R78, R88), and the lease tick with its warnings, expiries, withdrawals and
time-outs (R55 to R57, R71 to R73, R79 to R83).
-/

namespace Sys2Proof.Machine

/-! ### RENEW and CLEAR TAINT -/

/-- RENEW at its turn (R78). -/
def renewCommand (st : StationId) (c : Captured) (s : State) : State × Result :=
  if c.name = 0 then (s, .bare .badName)
  else match s.holdingUnder st c.name with
    | none => (s, .bare .notHolder)
    | some (i, r, h) =>
      let full := s.classLease r.attrs.leaseClass
      (s.setRecord i (some (r.setHolding st (some { h with lease := full }))), ⟨.done, leaseByte full, 0, 0, 0⟩)

/-- RENEW (R78). -/
def execRenew (st : StationId) (s : State) : Answer :=
  unlessReset s (ordinaryTurn st .renew anyOperands (renewCommand st))

/-- The revoked station as a plain number, 0 where the taint is clear (R88, R171). -/
def revokedByte (taint : Option StationId) : Byte :=
  match taint with
  | none => 0
  | some st => byteOf st.val

/-- CLEAR TAINT at its turn (R88). -/
def clearTaintCommand (st : StationId) (c : Captured) (s : State) : State × Result :=
  if c.name = 0 then (s, .bare .badName)
  else match s.holdingUnder st c.name with
    | none => (s, .bare .notHolder)
    | some (i, r, h) =>
      if h.mode = .shared then (s, .bare .badMode)
      else (s.setRecord i (some { r with taint := none }), ⟨.done, flagByte r.taint.isSome, revokedByte r.taint, 0, 0⟩)

/-- CLEAR TAINT (R88). -/
def execClearTaint (st : StationId) (s : State) : Answer :=
  unlessReset s (ordinaryTurn st .clearTaint anyOperands (clearTaintCommand st))

/-! ### The lease tick at one record -/

/-- The tick brings the holding's count to 0 (R79, R81). -/
def Holding.expires (h : Holding) : Bool :=
  match h.lease with
  | none => false
  | some n => decide (n ≤ 1)

/-- The holding after the tick: lowered by 1, or removed where it expires (R79, R81). -/
def Holding.ticked (h : Holding) : Option Holding :=
  if h.expires then none else some { h with lease := h.lease.map (· - 1) }

/-- The notice the tick queues for a holding: REVOKED where it expires, WARNING where the new count is a warn value
above 0 (R79 to R81). -/
def Holding.tickNotice (h : Holding) (n : LockName) (warn : Byte) : Option Notice :=
  match h.lease with
  | none => none
  | some c =>
    if c ≤ 1 then some ⟨.revoked, n, revokedDetail h.mode⟩
    else if c - 1 = warn.toNat then some ⟨.warning, n, byteOf (c - 1)⟩
    else none

/-- The station's holding of the record expires at the tick. -/
def Record.expiresAt (r : Record) (st : StationId) : Bool := (r.holding st).any Holding.expires

/-- The notices the tick queues for the holdings of a record (R73: these come first within the record). -/
def Record.holdingNotices (r : Record) (warn : Byte) : List (StationId × Notice) :=
  allStations.filterMap fun st => ((r.holding st).bind fun h => h.tickNotice r.name warn).map fun n => (st, n)

/-- The deadline reaches 0 at the tick (R55). -/
def Deadline.expires : Deadline → Bool
  | .ticks n => decide (n ≤ 1)
  | .unlimited => false

/-- A finite deadline is lowered by 1 (R55). -/
def Deadline.ticked : Deadline → Deadline
  | .ticks n => .ticks (n - 1)
  | .unlimited => .unlimited

/-- The notice that ends a waiter entry at the tick, if it ends: WITHDRAWN with cause LEASE where the station's own
holding expires under its upgrade wait (R67, in place of a time-out), else TIMED_OUT where its deadline reaches 0
(R56). -/
def Record.waiterEnd (r : Record) (w : Waiter) : Option Notice :=
  if w.request = .upgrade ∧ r.expiresAt w.station = true then
    some ⟨.withdrawn, r.name, withdrawnDetail .lease w.request⟩
  else if w.deadline.expires then some ⟨.timedOut, r.name, timedOutDetail w.request⟩
  else none

/-- The notices the tick queues for the waiters whose entries it ends (R73: these come second within the record). -/
def Record.waiterNotices (r : Record) : List (StationId × Notice) :=
  r.queue.filterMap fun w => (r.waiterEnd w).map fun n => (w.station, n)

/-- The queue after the tick: ended entries gone, finite deadlines lowered (R55, R56). -/
def Record.tickedQueue (r : Record) : List Waiter :=
  r.queue.filterMap fun w =>
    if (r.waiterEnd w).isSome then none else some { w with deadline := w.deadline.ticked }

/-- The taint after the tick: set with the holder whose exclusive holding expires (R81, R87). -/
def Record.tickedTaint (r : Record) : Option StationId :=
  match allStations.find? fun st => (r.holding st).any fun h => h.expires && h.mode == .exclusive with
  | some st => some st
  | none => r.taint

/-- The record after all the tick's changes to it, before the grant rule (R57, R73). -/
def Record.ticked (r : Record) : Record :=
  { (r.mapHoldings fun _ h => h.ticked) with queue := r.tickedQueue, taint := r.tickedTaint }

/-- The tick removes a holding or a waiter entry of the record, so that the grant rule runs on it (R35). -/
def Record.tickRemoves (r : Record) : Bool :=
  (allStations.any fun st => r.expiresAt st) || (r.queue.any fun w => (r.waiterEnd w).isSome)

/-- The stations whose holdings of the record expire each lose 1 from their holding count (R81, R82). -/
def State.lowerExpired (s : State) (r : Record) : State :=
  (allStations.filter fun st => r.expiresAt st).foldl State.lowerCount s

/-- The tick at one slot (R73): the notices of its holdings are judged with the waits as they still stand (R134); then
the record is changed and the notices of the ended waits enter; then the grant rule runs, its notices enter and the
retirement test is made. -/
def State.tickSlot (s : State) (i : SlotId) : State :=
  match s.record i with
  | none => s
  | some r =>
    let judged := s.queueNotices (r.holdingNotices (s.leaseClass r.attrs.leaseClass).warn)
    let changed := ((judged.setRecord i (some r.ticked)).lowerExpired r).queueNotices r.waiterNotices
    if r.tickRemoves then changed.settle i else changed

/-- The tick reaches every record, in ascending order of slot (R73). -/
def State.tickTable (s : State) : State := allSlots.foldl State.tickSlot s

/-! ### The lease unit -/

/-- The CLK periods of one tick: 1024 x (P + 1) (R71). -/
def LeaseUnit.period (u : LeaseUnit) : Nat := Config.tickBase * (u.p.toNat + 1)

/-- The prescaler count is set. -/
def State.setPrescaler (s : State) (n : Nat) : State := { s with lease := { s.lease with count := n } }

/-- The prescaler completes its count: it starts again at 0 and the tick is made (R71). -/
def State.tick (s : State) : State := (s.setPrescaler 0).tickTable

/-- One CLK period: while the flag is RUNNING the count rises by 1, and a completed count makes the tick (R71). -/
def State.clockPeriod (s : State) : State :=
  if s.lease.running then
    if s.lease.period ≤ s.lease.count + 1 then s.tick else s.setPrescaler (s.lease.count + 1)
  else s

/-- The CLK periods left until the prescaler completes pass, and the tick is made; while the flag is STOPPED no tick
is made (R71, log entry 4). -/
def State.nextTick (s : State) : State := if s.lease.running then s.tick else s

/-- LEASE_TICK (R73). -/
def execLeaseTick (s : State) : Answer := unlessReset s State.nextTick

/-- The next tick expires the station's holding in the slot (R81). -/
def State.expiryDue (s : State) (st : StationId) (i : SlotId) : Bool :=
  match s.record i with
  | none => false
  | some r => r.expiresAt st

/-- The next tick times the station's wait out: its deadline reaches 0 and it is not withdrawn instead (R56, R67). -/
def State.timeOutDue (s : State) (st : StationId) : Bool :=
  match s.waitOf st with
  | none => false
  | some (_, r, w) => w.deadline.expires && !(w.request == .upgrade && r.expiresAt st)

/-- LEASE_EXPIRY: the tick at which the station's holding in the slot expires, made whole as every tick is (R73, R81,
log entry 5). Where the next tick expires no such holding there is no such event. -/
def execLeaseExpiry (st : StationId) (i : SlotId) (s : State) : Answer :=
  unlessReset s fun s => if s.expiryDue st i then s.nextTick else s

/-- WAIT_TIME_OUT: the tick at which the station's wait times out, made whole as every tick is (R56, R73, log entry
5). Where the next tick times no such wait out there is no such event. -/
def execWaitTimeOut (st : StationId) (s : State) : Answer :=
  unlessReset s fun s => if s.timeOutDue st then s.nextTick else s

end Sys2Proof.Machine
end

