-- ==== Sys2Proof/Machine/Configuration.lean ====
section
/-!
DEFINITION. CONFIGURE, DEFINE, AMEND and RETIRE (chapter 9).
-/

namespace Sys2Proof.Machine

/-! ### CONFIGURE -/

/-- A lease class entry is stored (R162). -/
def State.setClass (s : State) (k : ClassId) (e : LeaseClass) : State :=
  { s with lease := { s.lease with classes := s.lease.classes.set k e } }

/-- The refit of the record in one slot, if its class is k (R85). -/
def State.refitSlot (k : ClassId) (length : Byte) (s : State) (i : SlotId) : State :=
  match s.record i with
  | none => s
  | some r => if r.attrs.leaseClass = k then s.setRecord i (some (r.refit length)) else s

/-- The selector of a captured CONFIGURE is 0 to 3, or one of the values 7 to 255 that name nothing (R161, log entry
3: the spec does not say which of the four rows answers those). -/
def selectsClass (c : Captured) : Bool :=
  match c.selector with
  | some (.leaseClass _) => true
  | none => true
  | some .prescaler | some .tickRun | some .defaults => false

/-- CONFIGURE of a class at its turn: the entry is stored and every holding of every record of the class is refitted;
D0 and D1 are the earlier entry (R161, R162). -/
def configureClassCommand (_st : StationId) (c : Captured) (s : State) : State × Result :=
  match c.selector, c.classEntry with
  | some (.leaseClass k), some e =>
    (allSlots.foldl (State.refitSlot k e.length) (s.setClass k e),
      ⟨.done, (s.leaseClass k).length, (s.leaseClass k).warn, 0, 0⟩)
  | _, _ => (s, .bare .badOperand)

/-- CONFIGURE_CLASS (R162). -/
def execConfigureClass (st : StationId) (s : State) : Answer :=
  unlessReset s (ordinaryTurn st .configure selectsClass (configureClassCommand st))

/-- The selector is 4 (R161). -/
def selectsPrescaler (c : Captured) : Bool := c.selector == some .prescaler

/-- CONFIGURE of P at its turn: P is stored and the prescaler count set to 0 (R163). -/
def configurePrescalerCommand (_st : StationId) (c : Captured) (s : State) : State × Result :=
  ({ s with lease := { s.lease with p := c.s2, count := 0 } }, ⟨.done, s.lease.p, 0, 0, 0⟩)

/-- CONFIGURE_PRESCALER (R163). -/
def execConfigurePrescaler (st : StationId) (s : State) : Answer :=
  unlessReset s (ordinaryTurn st .configure selectsPrescaler (configurePrescalerCommand st))

/-- The selector is 5 (R161). -/
def selectsTickRun (c : Captured) : Bool := c.selector == some .tickRun

/-- The tick-run flag is set: a start sets the prescaler count to 0, a start while RUNNING changes nothing, and a stop
leaves the count where it stands (R72). -/
def State.setRunning (s : State) (run : Bool) : State :=
  if run && !s.lease.running then { s with lease := { s.lease with running := true, count := 0 } }
  else { s with lease := { s.lease with running := run } }

/-- CONFIGURE of the tick-run flag at its turn (R161, R163). -/
def configureTickRunCommand (_st : StationId) (c : Captured) (s : State) : State × Result :=
  match c.runSetting with
  | none => (s, .bare .badOperand)
  | some run => (s.setRunning run, ⟨.done, flagByte s.lease.running, 0, 0, 0⟩)

/-- CONFIGURE_TICK_RUN (R72). -/
def execConfigureTickRun (st : StationId) (s : State) : Answer :=
  unlessReset s (ordinaryTurn st .configure selectsTickRun (configureTickRunCommand st))

/-- The selector is 6 (R161). -/
def selectsDefaults (c : Captured) : Bool := c.selector == some .defaults

/-- CONFIGURE of the transient defaults at its turn (R161, R164). -/
def configureDefaultsCommand (_st : StationId) (c : Captured) (s : State) : State × Result :=
  match c.attributes with
  | none => (s, .bare .badOperand)
  | some a => ({ s with defaults := a }, ⟨.done, s.defaults.optionByte, s.defaults.permit, 0, 0⟩)

/-- CONFIGURE_DEFAULTS (R164). -/
def execConfigureDefaults (st : StationId) (s : State) : Answer :=
  unlessReset s (ordinaryTurn st .configure selectsDefaults (configureDefaultsCommand st))

/-! ### DEFINE and AMEND -/

/-- The standing count is set (R16). -/
def State.setStandingCount (s : State) (n : Nat) : State := { s with standingCount := n }

/-- The sharing guard: sharing would be forbidden while the record has a shared holding, or a SHARED or UPGRADE entry in
its queue (R168). -/
def Record.sharingGuard (r : Record) (a : Attributes) : Bool :=
  !a.sharedAllowed && (r.sharedHeld || r.queue.any (·.request != .exclusive))

/-- A claim waiter whose station is outside a permit mask (R68). -/
def Waiter.leftOut (w : Waiter) (a : Attributes) : Bool := w.request != .upgrade && !a.permits w.station

/-- The WITHDRAWN notice of a waiter left out of a mask (R68). -/
def Record.permitNotice (r : Record) (w : Waiter) : StationId × Notice :=
  (w.station, ⟨.withdrawn, r.name, withdrawnDetail .permit w.request⟩)

/-- The waiters that a new mask leaves out (R68). -/
def Record.leftOut (r : Record) (a : Attributes) : List Waiter := r.queue.filter (·.leftOut a)

/-- The record without the waiters that a new mask leaves out (R68). -/
def Record.withdrawOutside (r : Record) (a : Attributes) : Record :=
  { r with queue := r.queue.filter fun w => !w.leftOut a }

/-- The record of a slot is stored with new attributes; the claim waiters outside the mask are withdrawn, and the
grant rule runs once (R167 steps 4 and 5, R169 steps 3 and 4). -/
def State.storeAmended (s : State) (i : SlotId) (r : Record) : State :=
  ((s.setRecord i (some (r.withdrawOutside r.attrs))).queueNotices ((r.leftOut r.attrs).map r.permitNotice)).settle i

/-- The adopted record: STANDING, with the new attributes, its holdings refitted to the new class (R167 steps 1 to
3). -/
def State.adopted (s : State) (r : Record) (a : Attributes) : Record :=
  ({ r with kind := .standing, attrs := a } : Record).refit (s.leaseClass a.leaseClass).length

/-- The result of an adoption or an amendment: the slot, 1 for an adoption, and the waiters withdrawn (R167, R169). -/
def amendedResult (i : SlotId) (adoption : Bool) (r : Record) (a : Attributes) : Result :=
  ⟨.done, byteOf i.val, flagByte adoption, byteOf (r.leftOut a).length, 0⟩

/-- The standing record that DEFINE creates (R14, R166). -/
def newStanding (n : LockName) (a : Attributes) : Record := ⟨n, .standing, a, Vector.replicate 8 none, [], none⟩

/-- Steps 5a to 5c of DEFINE: no record has the name (R165, R166). -/
def defineAbsent (n : LockName) (a : Attributes) (s : State) : State × Result :=
  if Config.standingLimit ≤ s.standingCount then (s, .bare .standingFull)
  else match s.freeSlot with
    | none => (s, .bare .tableFull)
    | some i => ((s.setRecord i (some (newStanding n a))).setStandingCount (s.standingCount + 1),
        ⟨.done, byteOf i.val, 0, 0, 0⟩)

/-- DEFINE at its turn (R165). -/
def defineCommand (_st : StationId) (c : Captured) (s : State) : State × Result :=
  match c.attributes with
  | none => (s, .bare .badOperand)
  | some a =>
    if c.name = 0 then (s, .bare .badName)
    else match s.lookup c.name with
      | none => defineAbsent c.name a s
      | some (i, r) =>
        if r.kind = .standing then (s, .bare .badState)
        else if Config.standingLimit ≤ s.standingCount then (s, .bare .standingFull)
        else if r.sharingGuard a then (s, .bare .inUse)
        else ((s.setStandingCount (s.standingCount + 1)).storeAmended i (s.adopted r a), amendedResult i true r a)

/-- DEFINE (R165). -/
def execDefine (st : StationId) (s : State) : Answer :=
  unlessReset s (ordinaryTurn st .define anyOperands (defineCommand st))

/-- The amended record: the new attributes, and its holdings refitted if the class has changed (R169 steps 1 and 2). -/
def State.amended (s : State) (r : Record) (a : Attributes) : Record :=
  if r.attrs.leaseClass = a.leaseClass then { r with attrs := a }
  else ({ r with attrs := a } : Record).refit (s.leaseClass a.leaseClass).length

/-- AMEND at its turn (R169). -/
def amendCommand (_st : StationId) (c : Captured) (s : State) : State × Result :=
  match c.attributes with
  | none => (s, .bare .badOperand)
  | some a =>
    if c.name = 0 then (s, .bare .badName)
    else match s.lookup c.name with
      | none => (s, .bare .noRecord)
      | some (i, r) =>
        if r.kind = .transient then (s, .bare .badState)
        else if r.sharingGuard a then (s, .bare .inUse)
        else (s.storeAmended i (s.amended r a), amendedResult i false r a)

/-- AMEND (R169). -/
def execAmend (st : StationId) (s : State) : Answer :=
  unlessReset s (ordinaryTurn st .amend anyOperands (amendCommand st))

/-! ### RETIRE -/

/-- The removal of a record frees its slot; for a standing record the standing count falls by 1 (R171). -/
def State.removeRecord (s : State) (i : SlotId) (r : Record) : State :=
  (s.setRecord i none).setStandingCount (if r.kind = .standing then s.standingCount - 1 else s.standingCount)

/-- RETIRE at its turn (R171). -/
def retireCommand (_st : StationId) (c : Captured) (s : State) : State × Result :=
  if c.name = 0 then (s, .bare .badName)
  else match s.lookup c.name with
    | none => (s, .bare .noRecord)
    | some (i, r) =>
      if r.idle = false ∨ r.queue ≠ [] then (s, .bare .inUse)
      else (s.removeRecord i r,
        ⟨.done, byteOf i.val, flagByte r.taint.isSome, revokedByte r.taint, r.kind.code.setWidth 8⟩)

/-- RETIRE (R171). -/
def execRetire (st : StationId) (s : State) : Answer :=
  unlessReset s (ordinaryTurn st .retire anyOperands (retireCommand st))

end Sys2Proof.Machine
end

