-- ==== Sys2Proof/Machine/Inspection.lean ====
section
/-!
DEFINITION. INSPECT, LIST FIRST, LIST NEXT and STATION INFO (chapter 8).
-/

namespace Sys2Proof.Machine

/-! ### INSPECT -/

/-- An UPGRADE entry stands at the head of the queue (R149). -/
def Record.upgradeWaiterAtHead (r : Record) : Bool := r.queue.head?.any (·.request == .upgrade)

/-- The summary view (R149). -/
def Record.summaryView (r : Record) : Result :=
  ⟨.done, summaryByte r.kind r.taint r.derivedMode r.attrs, stationSet r.holds,
    waitersByte r.upgradeWaiterAtHead r.queue.length, r.attrs.permit⟩

/-- The view of one waiter (R150). -/
def Waiter.view (w : Waiter) : Result := ⟨.done, byteOf w.station.val, w.request.code.setWidth 8, w.deadline.byte, 0⟩

/-- The own-holding view (R151). -/
def Holding.view (h : Holding) (taint : Option StationId) : Result :=
  ⟨.done, byteOf h.depth, h.mode.byte, leaseByte h.lease, holdingByte h.mode taint⟩

/-- What a view of a record answers (R147 steps 4 to 6). -/
def Record.view (r : Record) (st : StationId) : View → Result
  | .summary => r.summaryView
  | .waiter p => match r.queue[p - 1]? with
    | none => .bare .endOfList
    | some w => w.view
  | .own => match r.holding st with
    | none => .bare .notHolder
    | some h => h.view r.taint

/-- INSPECT at its turn (R147); it changes nothing but the result window (R148). -/
def inspectCommand (st : StationId) (c : Captured) (s : State) : State × Result :=
  match c.view with
  | none => (s, .bare .badOperand)
  | some v =>
    if c.name = 0 then (s, .bare .badName)
    else match s.lookup c.name with
      | none => (s, .bare .noRecord)
      | some (_, r) => (s, r.view st v)

/-- INSPECT (R147). -/
def execInspect (st : StationId) (s : State) : Answer :=
  unlessReset s (ordinaryTurn st .inspect anyOperands (inspectCommand st))

/-! ### Listing -/

/-- A record matches a scope, for the station whose cursor it is (R155). -/
def Scope.isMatch (scope : Scope) (st : StationId) (r : Record) : Bool :=
  match scope with
  | .own => r.holds st
  | .all => true
  | .standing => r.kind == .standing
  | .tainted => r.taint.isSome

/-- The first matching record at or beyond an index (R154). -/
def State.nextMatch (s : State) (st : StationId) (cur : Cursor) : Option (SlotId × Record) :=
  allSlots.findSome? fun i =>
    match s.record i with
    | some r => if cur.index.val ≤ i.val ∧ cur.scope.isMatch st r = true then some (i, r) else none
    | none => none

/-- A station's listing cursor is set. -/
def State.setCursor (s : State) (st : StationId) (cur : Cursor) : State :=
  s.modifyCtx st fun x => { x with cursor := some cur }

/-- What LIST NEXT does with a set cursor: the next matching record and the index one beyond its slot, or END_OF_LIST
and index 64 (R154). -/
def listFrom (st : StationId) (cur : Cursor) (s : State) : State × Result :=
  match s.nextMatch st cur with
  | some (p, r) => (s.setCursor st { cur with index := p.succ },
      ⟨.done, r.name.extractLsb' 8 8, r.name.extractLsb' 0 8, byteOf p.val, 0⟩)
  | none => (s.setCursor st { cur with index := 64 }, .bare .endOfList)

/-- LIST FIRST at its turn (R153). -/
def listFirstCommand (st : StationId) (c : Captured) (s : State) : State × Result :=
  match c.scope with
  | none => (s, .bare .badOperand)
  | some scope => listFrom st ⟨scope, 0⟩ s

/-- LIST FIRST (R153). -/
def execListFirst (st : StationId) (s : State) : Answer :=
  unlessReset s (ordinaryTurn st .listFirst anyOperands (listFirstCommand st))

/-- LIST NEXT at its turn (R154). -/
def listNextCommand (st : StationId) (_c : Captured) (s : State) : State × Result :=
  match (s.ctx st).cursor with
  | none => (s, .bare .badState)
  | some cur => listFrom st cur s

/-- LIST NEXT (R154). -/
def execListNext (st : StationId) (s : State) : Answer :=
  unlessReset s (ordinaryTurn st .listNext anyOperands (listNextCommand st))

/-! ### STATION INFO -/

/-- The report of one station (R158). -/
def State.stationReport (s : State) (t : StationId) : Result :=
  ⟨.done, (s.ctx t).life.code.setWidth 8, byteOf (s.holdingCount t), (s.waitName t).extractLsb' 8 8,
    (s.waitName t).extractLsb' 0 8⟩

/-- STATION INFO at its turn (R158). -/
def stationInfoCommand (_st : StationId) (c : Captured) (s : State) : State × Result :=
  match c.namedStation with
  | none => (s, .bare .badOperand)
  | some t => (s, s.stationReport t)

/-- STATION INFO (R158). -/
def execStationInfo (st : StationId) (s : State) : Answer :=
  unlessReset s (ordinaryTurn st .stationInfo anyOperands (stationInfoCommand st))

end Sys2Proof.Machine
end

