-- ==== Sys2Proof/Machine/Stations.lean ====
section
/-!
DEFINITION. ATTACH, and the DETACH and PURGE walks (chapter 5).
-/

namespace Sys2Proof.Machine

/-! ### ATTACH -/

/-- ATTACH at its turn: an OFFLINE station becomes ONLINE and its NOTICE LOST is cleared; an ONLINE one is refused
BAD_STATE (R96). -/
def attachCommand (st : StationId) (_c : Captured) (s : State) : State × Result :=
  if (s.ctx st).life = .offline then
    (s.modifyCtx st fun x => { x with life := .online, noticeLost := false }, ⟨.done, byteOf st.val, 0, 0, 0⟩)
  else (s, .bare .badState)

/-- ATTACH (R96). -/
def execAttach (st : StationId) (s : State) : Answer :=
  unlessReset s (ordinaryTurn st .attach anyOperands (attachCommand st))

/-! ### The step of a walk -/

/-- A purge walk taints the record where the holding it revokes is exclusive; a detach walk never does (R100, R107). -/
def Walk.taints (w : Walk) (h : Holding) : Bool := w.kind == .purge && h.mode == .exclusive

/-- The effect of a walk step on the slot at the walk position: the target's holding there, if any, is removed; a
purge revokes it and taints the record where it was exclusive; the grant rule and the retirement test follow (R100,
R107). Answers the walk with its counts raised. -/
def walkEffect (w : Walk) (s : State) : State × Walk :=
  match s.record w.position with
  | none => (s, w)
  | some r =>
    match r.holding w.target with
    | none => (s, w)
    | some h =>
      let r' := if w.taints h then { r with taint := some w.target } else r
      ((s.dropHolding w.position r' w.target).settle w.position,
        { w with removed := w.removed + 1, tainted := w.tainted + if w.taints h then 1 else 0 })

/-- The result of a finished walk: DONE with the holdings released, or with the holdings revoked and the records
tainted (R101, R108). -/
def Walk.result (w : Walk) : Result :=
  match w.kind with
  | .detach => ⟨.done, byteOf w.removed, 0, 0, 0⟩
  | .purge => ⟨.done, byteOf w.removed, byteOf w.tainted, 0, 0⟩

/-- A station's state is set. -/
def State.setLife (s : State) (st : StationId) (l : Life) : State := s.modifyCtx st fun x => { x with life := l }

/-- A station's slot carries a walk. -/
def State.carryWalk (s : State) (st : StationId) (c : Captured) (w : Walk) : State :=
  s.modifyCtx st fun x => { x with slot := .executing c w }

/-- One step of a walk carried by a station's slot: the slot at the walk position, then the position rises by 1, or
the walk ends with the step on slot 63 (R99, R101, R108, R122). -/
def walkStep (st : StationId) (c : Captured) (w : Walk) (s : State) : State :=
  let x := walkEffect w s
  if w.position = 63 then (x.1.setLife w.target .offline).complete st x.2.result
  else x.1.carryWalk st c { x.2 with position := w.position + 1 }

/-- A later turn of a walk of one kind in a station's slot (R122). Where the arbiter does not give the next turn to
such a walk there is no such event (log entry 2). -/
def laterTurn (kind : WalkKind) (st : StationId) (s : State) : State :=
  match s.walkTurn st with
  | none => s
  | some (c, w) => if w.kind = kind then (walkStep st c w s).endTurn st else s

/-- DETACH_WALK_STEP (R100, R101). -/
def execDetachWalkStep (st : StationId) (s : State) : Answer := unlessReset s (laterTurn .detach st)

/-- PURGE_WALK_STEP (R107, R108). -/
def execPurgeWalkStep (st : StationId) (s : State) : Answer := unlessReset s (laterTurn .purge st)

/-! ### DETACH -/

/-- A walk that begins: position 0 and counts 0 (R98, R106). -/
def Walk.start (kind : WalkKind) (target : StationId) : Walk := ⟨kind, target, 0, 0, 0⟩

/-- The first turn of an accepted DETACH, in the order of R98. -/
def detachFirstTurn (st : StationId) (c : Captured) (s : State) : State :=
  walkStep st c (Walk.start .detach st)
    (((s.setLife st .detaching).endWait st).modifyCtx st fun x => { x with notices := [], cursor := none })

/-- DETACH (R98). -/
def execDetach (st : StationId) (s : State) : Answer :=
  unlessReset s (commandTurn st .detach anyOperands (detachFirstTurn st))

/-! ### PURGE -/

/-- The context of a purge's target is cleared: a captured command is discarded, the result window is set to NONE, and
the notice queue, mask, fault record and cursor are cleared; staging bytes, last code, notice window and NOTICE LOST
stay (R105). -/
def Station.purged (x : Station) : Station :=
  { x with
    slot := .empty
    result := .bare .none
    resultReady := false
    notices := []
    mask := 0
    fault := .cleared
    cursor := none }

/-- The first turn of an accepted PURGE: R105, then R106 in its order. -/
def purgeFirstTurn (st target : StationId) (c : Captured) (s : State) : State :=
  walkStep st c (Walk.start .purge target)
    (((s.modifyCtx target Station.purged).endWait target).setLife target .purging)

/-- PURGE after the checks of R120: the remaining checks of R104, then its first turn. -/
def purgeCommand (st : StationId) (c : Captured) (s : State) : State :=
  match c.purgeTarget with
  | none => s.complete st (.bare .badOperand)
  | some target =>
    if s.online target then purgeFirstTurn st target c s else s.complete st (.bare .badState)

/-- PURGE (R104). -/
def execPurge (st : StationId) (s : State) : Answer :=
  unlessReset s (commandTurn st .purge anyOperands (purgeCommand st))

end Sys2Proof.Machine
end

