-- ==== Sys2Proof/Machine/Window.lean ====
section
/-!
DEFINITION. The bus interface: what every offset of a station's window reads as, what reads and writes do (R173 to
R178), the notice line (R143), and the RESET pin (R183).
-/

namespace Sys2Proof.Machine

/-! ### What the window shows -/

/-- The part pulls the station's notice line low: a notice of an enabled kind is queued, or RESULT READY is set and
enabled (R143). -/
def State.lineLow (s : State) (st : StationId) : Bool :=
  ((s.ctx st).notices.any fun n => maskEnables (s.ctx st).mask n.kind)
    || ((s.ctx st).resultReady && maskEnablesReady (s.ctx st).mask)

/-- PENDING KINDS as read (R142). -/
def State.pendingKinds (s : State) (st : StationId) : BitVec 6 :=
  pendingKindsOf (s.ctx st).notices (s.ctx st).resultReady

/-- The STATUS byte as a read returns it (R178). -/
def State.status (s : State) (st : StationId) : Byte :=
  statusByte (decide ((s.ctx st).fault ≠ .cleared)) (s.ctx st).noticeLost (s.hasWait st) (s.lineLow st)
    (s.ctx st).resultReady (s.ctx st).slot.hasWork (s.ctx st).life

/-- What a take returns: the kind of the head notice, or NONE (R138, R181). -/
def takenKind (notices : List Notice) : Byte :=
  match notices with
  | [] => 0
  | n :: _ => byteOf n.kind.code

/-- The value a read of an offset returns (R176, R177). -/
def windowRead (s : State) (st : StationId) (off : Offset) : Byte :=
  let x := s.ctx st
  if h : off.val < 4 then x.stage[off.val]
  else match off.val with
    | 4 => x.lastCode
    | 5 => x.result.code.byte
    | 6 => x.result.d0
    | 7 => x.result.d1
    | 8 => x.result.d2
    | 9 => x.result.d3
    | 10 => s.status st
    | 11 => takenKind x.notices
    | 12 => x.windowName.extractLsb' 8 8
    | 13 => x.windowName.extractLsb' 0 8
    | 14 => x.windowDetail
    | 15 => x.mask.setWidth 8
    | 16 => x.mask.setWidth 8
    | 17 => (s.pendingKinds st).setWidth 8
    | 18 => x.fault.causeByte
    | 19 => x.fault.detail
    | 20 => byteOf x.notices.length
    | 21 => byteOf (s.holdingCount st)
    | _ => 0xFF

/-- READY: a read of the offset is held by an engine turn or a tick that takes the state from `before` to `after`. It is
held where the event changes the value the offset would return (R174), and a take is held by every change of the queue it
takes from (R140): by the entry of a notice behind a head that the take would return in either case, too. That R140's hold is
made there, where R174's test of the value alone makes none, is the model's choice (DESIGN CHOICE, log entry 16). The read
then returns the value after the event. -/
def readHeld (before after : State) (st : StationId) (off : Offset) : Bool :=
  windowRead before st off != windowRead after st off
    || (off == Config.offNoticeTake && (before.ctx st).notices != (after.ctx st).notices)

/-! ### Accesses -/

/-- A read access drives the byte on D7-D0 (R173). -/
def State.drive (s : State) (b : Byte) : State := { s with dataPins := some b }

/-- A write access leaves D7-D0 to the station (R173). -/
def State.release (s : State) : State := { s with dataPins := none }

/-- The side effect of a take: the head's name and detail move into the notice window and it leaves the queue; an
empty queue leaves all as it was (R138). -/
def Station.take (x : Station) : Station :=
  match x.notices with
  | [] => x
  | n :: ns => { x with windowName := n.name, windowDetail := n.detail, notices := ns }

/-- The side effect of a read of an offset (R176). -/
def readEffect (s : State) (st : StationId) (off : Offset) : State :=
  if off = Config.offResult then s.modifyCtx st fun x => { x with resultReady := false }
  else if off = Config.offStatus then s.modifyCtx st fun x => { x with noticeLost := false }
  else if off = Config.offNoticeTake then s.modifyCtx st Station.take
  else if Config.firstUnassigned ≤ off.val then s.recordFault st .unassignedOffset (byteOf off.val)
  else s

/-- A read access: the byte is driven and the side effect is made (R173, R176). -/
def busRead (st : StationId) (off : Offset) (s : State) : State :=
  (readEffect s st off).drive (windowRead s st off)

/-- A COMMAND write into an EMPTY slot is captured (R114). -/
def Station.capture (x : Station) (code : Byte) : Station :=
  { x with slot := .pending ⟨code, x.stage[0], x.stage[1], x.stage[2], x.stage[3]⟩, resultReady := false, lastCode := code }

/-- A COMMAND write: dropped with COMMAND OVERRUN while the slot has work, not taken with COMMAND IN PURGE while the
station is PURGING, else captured (R114, R115). -/
def commandWrite (s : State) (st : StationId) (code : Byte) : State :=
  if (s.ctx st).slot.hasWork then s.recordFault st .commandOverrun code
  else if (s.ctx st).life = .purging then s.recordFault st .commandInPurge code
  else s.modifyCtx st fun x => x.capture code

/-- The effect of a write to an offset (R176). -/
def writeEffect (s : State) (st : StationId) (off : Offset) (v : Byte) : State :=
  if h : off.val < 4 then s.modifyCtx st fun x => { x with stage := x.stage.set off.val v }
  else if off = Config.offCommand then commandWrite s st v
  else if off = Config.offMaskSet then s.modifyCtx st fun x => { x with mask := maskSetBy x.mask v }
  else if off = Config.offMaskClear then s.modifyCtx st fun x => { x with mask := maskClearBy x.mask v }
  else if off = Config.offFaultCause then s.modifyCtx st fun x => { x with fault := .cleared }
  else if Config.firstUnassigned ≤ off.val then s.recordFault st .unassignedOffset (byteOf off.val)
  else s.recordFault st .writeToReadOnly (byteOf off.val)

/-- A write access (R173, R176). -/
def busWrite (st : StationId) (off : Offset) (v : Byte) (s : State) : State := (writeEffect s st off v).release

/-- RESULT_READ (R124). -/
def execResultRead (st : StationId) (s : State) : Answer := unlessReset s (busRead st Config.offResult)

/-- STATUS_READ (R178). -/
def execStatusRead (st : StationId) (s : State) : Answer := unlessReset s (busRead st Config.offStatus)

/-- NOTICE_TAKE (R138). -/
def execNoticeTake (st : StationId) (s : State) : Answer := unlessReset s (busRead st Config.offNoticeTake)

/-- MASK_SET (R141). -/
def execMaskSet (st : StationId) (v : Byte) (s : State) : Answer := unlessReset s (busWrite st Config.offMaskSet v)

/-- MASK_CLEAR (R141). -/
def execMaskClear (st : StationId) (v : Byte) (s : State) : Answer := unlessReset s (busWrite st Config.offMaskClear v)

/-- FAULT_CAUSE_WRITE (R128). -/
def execFaultCauseWrite (st : StationId) (v : Byte) (s : State) : Answer :=
  unlessReset s (busWrite st Config.offFaultCause v)

/-- UNASSIGNED_OFFSET: a read, or a write of the byte given (R177). -/
def execUnassignedOffset (st : StationId) (off : Offset) (written : Option Byte) (s : State) : Answer :=
  unlessReset s (match written with
    | none => busRead st off
    | some v => busWrite st off v)

/-- WINDOW_WRITE (R176). -/
def execWindowWrite (st : StationId) (off : Offset) (v : Byte) (s : State) : Answer :=
  unlessReset s (busWrite st off v)

/-! ### RESET -/

/-- The RESET pin takes a new level: while it is high every piece of the part's state is held at its reset value; when
it falls the part is in its reset state (R183). The queue of waiting commands is not part of the 4180. -/
def execReset (high : Bool) (s : State) : Answer :=
  .next (if high then { State.reset with resetPin := true, pending := s.pending } else { s with resetPin := false })

end Sys2Proof.Machine
end

