-- ==== Sys2Proof/Machine/Dispatch.lean ====
section
/-!
DEFINITION. One arm for each command: each is one direct call of its meaning.
-/

namespace Sys2Proof.Machine

/-- The effect of one command on everything but the queue of waiting commands. -/
def exec (i : Instr) (s : State) : Host.Outcome State Fault Refusal :=
  match i with
  | .attach st => Sys2Proof.Machine.execAttach st s
  | .detach st => Sys2Proof.Machine.execDetach st s
  | .detachWalkStep st => Sys2Proof.Machine.execDetachWalkStep st s
  | .claim st => Sys2Proof.Machine.execClaim st s
  | .release st => Sys2Proof.Machine.execRelease st s
  | .downgrade st => Sys2Proof.Machine.execDowngrade st s
  | .upgrade st => Sys2Proof.Machine.execUpgrade st s
  | .renew st => Sys2Proof.Machine.execRenew st s
  | .cancel st => Sys2Proof.Machine.execCancel st s
  | .clearTaint st => Sys2Proof.Machine.execClearTaint st s
  | .inspect st => Sys2Proof.Machine.execInspect st s
  | .listFirst st => Sys2Proof.Machine.execListFirst st s
  | .listNext st => Sys2Proof.Machine.execListNext st s
  | .stationInfo st => Sys2Proof.Machine.execStationInfo st s
  | .define st => Sys2Proof.Machine.execDefine st s
  | .amend st => Sys2Proof.Machine.execAmend st s
  | .retire st => Sys2Proof.Machine.execRetire st s
  | .configureClass st => Sys2Proof.Machine.execConfigureClass st s
  | .configurePrescaler st => Sys2Proof.Machine.execConfigurePrescaler st s
  | .configureTickRun st => Sys2Proof.Machine.execConfigureTickRun st s
  | .configureDefaults st => Sys2Proof.Machine.execConfigureDefaults st s
  | .purge st => Sys2Proof.Machine.execPurge st s
  | .purgeWalkStep st => Sys2Proof.Machine.execPurgeWalkStep st s
  | .badCommand st => Sys2Proof.Machine.execBadCommand st s
  | .leaseTick => Sys2Proof.Machine.execLeaseTick s
  | .leaseExpiry st slot => Sys2Proof.Machine.execLeaseExpiry st slot s
  | .waitTimeOut st => Sys2Proof.Machine.execWaitTimeOut st s
  | .resultRead st => Sys2Proof.Machine.execResultRead st s
  | .statusRead st => Sys2Proof.Machine.execStatusRead st s
  | .noticeTake st => Sys2Proof.Machine.execNoticeTake st s
  | .maskSet st value => Sys2Proof.Machine.execMaskSet st value s
  | .maskClear st value => Sys2Proof.Machine.execMaskClear st value s
  | .faultCauseWrite st value => Sys2Proof.Machine.execFaultCauseWrite st value s
  | .unassignedOffset st offset written => Sys2Proof.Machine.execUnassignedOffset st offset written s
  | .windowWrite st offset value => Sys2Proof.Machine.execWindowWrite st offset value s
  | .reset high => Sys2Proof.Machine.execReset high s

end Sys2Proof.Machine
end

