-- ==== Sys2Proof/Machine/Step.lean ====
section
/-!
DEFINITION. One step of the block: the command at the front of the queue, or, where none waits, one CLK period of the
lease unit (R71, log entry 6).
-/

namespace Sys2Proof.Machine

/-- The queue's front is taken and run on the state with the queue's rest; on an empty queue one CLK period passes
(nothing, while RESET is high, R183). -/
def step (s : State) : Host.Outcome State Fault Refusal :=
  match s.pending with
  | [] => unlessReset s State.clockPeriod
  | i :: rest => exec i { s with pending := rest }

/-- The command that a word spells, put at the front of the queue; no word spells one, since the table has no bits. -/
def State.withFetchWord (s : State) (nbits w : Nat) : State :=
  match decodeTableWord nbits w with
  | none => s
  | some i => { s with pending := i :: s.pending }

end Sys2Proof.Machine
end

