-- ==== Sys2Proof/Safety.lean ====
section
/-!
DEFINITION. The vocabulary of claims about the block: which command the engine's next turn is, what it means for a
command to be due, and the laws the spec says the part keeps at the end of every event (01 section 1.7 and the rules
named at each).
-/

namespace Sys2Proof.Machine

/-! ### The engine's next turn -/

/-- The row of the opcode table that a captured command's turn is (R120, R161, log entry 3). -/
def turnRow (st : StationId) (c : Captured) : Instr :=
  match c.command with
  | none => .badCommand st
  | some .attach => .attach st
  | some .detach => .detach st
  | some .claim => .claim st
  | some .release => .release st
  | some .upgrade => .upgrade st
  | some .downgrade => .downgrade st
  | some .renew => .renew st
  | some .cancel => .cancel st
  | some .clearTaint => .clearTaint st
  | some .inspect => .inspect st
  | some .listFirst => .listFirst st
  | some .listNext => .listNext st
  | some .define => .define st
  | some .amend => .amend st
  | some .retire => .retire st
  | some .purge => .purge st
  | some .stationInfo => .stationInfo st
  | some .configure =>
    match c.selector with
    | some .prescaler => .configurePrescaler st
    | some .tickRun => .configureTickRun st
    | some .defaults => .configureDefaults st
    | some (.leaseClass _) => .configureClass st
    | none => .configureClass st

/-- The row that the engine's next turn is; none while every slot is EMPTY and the engine is idle (R117, R122). -/
def State.turnDue (s : State) : Option Instr :=
  match s.arbiter with
  | none => none
  | some st =>
    match (s.ctx st).slot with
    | .empty => none
    | .pending c => some (turnRow st c)
    | .executing _ w =>
      match w.kind with
      | .detach => some (.detachWalkStep st)
      | .purge => some (.purgeWalkStep st)

/-- The station whose slot an engine row names; none for the rows that are no turn. -/
def turnStation : Instr → Option StationId
  | .attach st | .detach st | .detachWalkStep st | .claim st | .release st | .downgrade st | .upgrade st | .renew st
  | .cancel st | .clearTaint st | .inspect st | .listFirst st | .listNext st | .stationInfo st | .define st
  | .amend st | .retire st | .configureClass st | .configurePrescaler st | .configureTickRun st
  | .configureDefaults st | .purge st | .purgeWalkStep st | .badCommand st => some st
  | .leaseTick | .leaseExpiry _ _ | .waitTimeOut _ | .resultRead _ | .statusRead _ | .noticeTake _ | .maskSet _ _
  | .maskClear _ _ | .faultCauseWrite _ _ | .unassignedOffset _ _ _ | .windowWrite _ _ _ | .reset _ => none

/-- The engine's next turn executes the captured command c of the station, and c names the command cmd, which passes
the checks of R120: the issuer is ONLINE (but for ATTACH), and is station 0 for a supervisor command. -/
def Due (s : State) (st : StationId) (c : Captured) (cmd : Command) : Prop :=
  s.resetPin = false ∧ s.pendingTurn st = some c ∧ c.command = some cmd
    ∧ (cmd = .attach ∨ s.online st = true) ∧ (cmd.supervisorOnly = false ∨ st = 0)

/-- The state a turn ends in when it changes the part to s', posts the result and completes the command of the
station (R118, R123). -/
def posted (s' : State) (st : StationId) (r : Result) : Host.Outcome State Fault Refusal :=
  .next ((s'.complete st r).endTurn st)

/-- The code of the first row whose condition holds (the tables of checks: "the first condition that applies
decides"). -/
def FirstApplies : List (Prop × ResultCode) → ResultCode → Prop
  | [], _ => False
  | row :: rest, code => (row.1 ∧ code = row.2) ∨ (¬ row.1 ∧ FirstApplies rest code)

/-- The lease that a holding of the record is given at a load: the length of its class, absent where that is 0 (R75,
R76). -/
def loadedLease (s : State) (k : ClassId) : Option Nat :=
  if (s.lease.classes[k]).length = 0 then none else some (s.lease.classes[k]).length.toNat

/-! ### The table as the rules speak of it -/

/-- The record in a slot has a name (R1). -/
def State.Named (s : State) (n : LockName) (i : SlotId) (r : Record) : Prop := s.record i = some r ∧ r.name = n

/-- No record has the name (R1). -/
def State.Absent (s : State) (n : LockName) : Prop := ∀ i, ∀ r ∈ s.record i, r.name ≠ n

/-- The free-slot pool is empty (R1). -/
def State.TableFull (s : State) : Prop := ∀ i, s.record i ≠ none

/-- The lowest-numbered slot of the free-slot pool (R12). -/
def State.LowestFree (s : State) (i : SlotId) : Prop := s.record i = none ∧ ∀ j, j < i → s.record j ≠ none

/-- The record has no holders (R5). -/
def Record.NoHolder (r : Record) : Prop := ∀ a, r.holding a = none

/-- The record has no exclusive holder (R5). -/
def Record.NoExclusiveHolder (r : Record) : Prop := ∀ a, ∀ h ∈ r.holding a, h.mode ≠ .exclusive

/-- The station is the record's only holder (R36). -/
def Record.OnlyHolder (r : Record) (st : StationId) : Prop := r.holding st ≠ none ∧ ∀ a, a ≠ st → r.holding a = none

/-- A claim in the mode is grantable now for a station that does not hold the record (R32). -/
def Record.GrantableNow (r : Record) (m : Mode) : Prop :=
  r.queue = [] ∧ (m = .exclusive → r.NoHolder) ∧ (m = .shared → r.NoExclusiveHolder)

/-- The station has an upgrade wait on the record (R10). -/
def Record.UpgradeWaiter (r : Record) (st : StationId) : Prop := ∃ w ∈ r.queue, w.station = st ∧ w.request = .upgrade

/-- The station has a wait (R10). -/
def State.Waiting (s : State) (st : StationId) : Prop := ∃ i, ∃ r ∈ s.record i, ∃ w ∈ r.queue, w.station = st

/-- A record matches a scope, for the listing station (R155). -/
def Scope.Covers (scope : Scope) (st : StationId) (r : Record) : Prop :=
  match scope with
  | .own => r.holding st ≠ none
  | .all => True
  | .standing => r.kind = .standing
  | .tainted => r.taint ≠ none

/-- The record has a SHARED holding, or a SHARED or UPGRADE entry in its queue (R168). -/
def Record.SharedUse (r : Record) : Prop :=
  (∃ a, ∃ h ∈ r.holding a, h.mode = .shared) ∨ ∃ w ∈ r.queue, w.request ≠ .exclusive

/-- A claim waiter whose station is outside a permit mask (R68). -/
abbrev Waiter.OutsideMask (w : Waiter) (permit : Byte) : Prop :=
  w.request ≠ .upgrade ∧ permit.getLsbD w.station.val = false

/-- The holding after a refit to a length (the table of R85). -/
def refitted (length : Byte) (h : Holding) : Holding :=
  { h with lease :=
      if length = 0 then none
      else match h.lease with
        | none => some length.toNat
        | some n => some (if n ≤ length.toNat then n else length.toNat) }

/-- The fault record after a fault: stored where no cause is held, else only FURTHER FAULTS is set (R126). -/
def faultAfter (f : FaultRecord) (cause : FaultCause) (detail : Byte) : FaultRecord :=
  if f.cause = none then { f with cause := some cause, detail := detail } else { f with further := true }

/-! ### The grant rule and the walks as the rules give them -/

/-- The entry at the head is grantable (the table of R36). -/
def Record.HeadGrantable (r : Record) (w : Waiter) : Prop :=
  match w.request with
  | .exclusive => r.NoHolder
  | .shared => r.NoExclusiveHolder
  | .upgrade => r.OnlyHolder w.station

/-- The holding a granted waiter has: new, of depth 1 and loaded, or the old one made EXCLUSIVE and reloaded (R37). -/
def grantedHolding (full : Option Nat) (old : Option Holding) : Request → Option Holding
  | .shared => some ⟨.shared, 1, full⟩
  | .exclusive => some ⟨.exclusive, 1, full⟩
  | .upgrade => old.map fun h => { h with mode := .exclusive, lease := full }

/-- One run of the grant rule takes a record to another and grants a batch: while the head is grantable it leaves the
queue and is granted; the run stops at an empty queue or at a head that is not grantable (R36 to R38). -/
inductive GrantRun (full : Option Nat) : Record → List Waiter → Record → Prop
  | stopEmpty (r : Record) : r.queue = [] → GrantRun full r [] r
  | stopHeld (r : Record) (w : Waiter) (ws : List Waiter) : r.queue = w :: ws → ¬ r.HeadGrantable w → GrantRun full r [] r
  | grant (r : Record) (w : Waiter) (ws batch : List Waiter) (r' : Record) :
      r.queue = w :: ws → r.HeadGrantable w →
      GrantRun full
        { r with queue := ws, holders := r.holders.set w.station (grantedHolding full (r.holding w.station) w.request) }
        batch r' →
      GrantRun full r (w :: batch) r'

/-- A transient record with no holders, an empty queue and its taint clear (R17). -/
def Record.ToRetire (r : Record) : Prop := r.kind = .transient ∧ r.NoHolder ∧ r.queue = [] ∧ r.taint = none

/-- What ending a station's wait without a notice makes of the part: nothing where it has none; else its entry leaves
the queue and the grant rule runs on the record (R58, R98 step 2, R106 step 1). -/
def WaitEnded (s : State) (st : StationId) (u : State) : Prop :=
  (¬ s.Waiting st ∧ u = s)
    ∨ ∃ i r, s.record i = some r ∧ (∃ w ∈ r.queue, w.station = st)
        ∧ u = (s.setRecord i (some { r with queue := r.queue.filter fun w => decide (w.station ≠ st) })).settle i

/-- What a walk step on a slot makes of the part, with the numbers of holdings removed and of records tainted: nothing
where the slot is free or the target has no holding in it; else the holding is removed, the taint set where a purge
revokes an exclusive holding, and the grant rule and the retirement test follow (R100, R107). -/
def WalkStepped (kind : WalkKind) (target : StationId) (p : SlotId) (s u : State) (removed tainted : Nat) : Prop :=
  ((∀ r ∈ s.record p, r.holding target = none) ∧ u = s ∧ removed = 0 ∧ tainted = 0)
    ∨ ∃ r h, s.record p = some r ∧ r.holding target = some h ∧ removed = 1
        ∧ ((kind = .purge ∧ h.mode = .exclusive ∧ tainted = 1
              ∧ u = (((s.setRecord p (some { r with holders := r.holders.set target none, taint := some target })).setCount
                  target (s.holdingCount target - 1))).settle p)
          ∨ (¬ (kind = .purge ∧ h.mode = .exclusive) ∧ tainted = 0
              ∧ u = (((s.setRecord p (some { r with holders := r.holders.set target none })).setCount
                  target (s.holdingCount target - 1))).settle p))

/-! ### The lease tick as the rules give it -/

/-- The tick brings the count of the station's holding of the record to 0 (R79, R81; at most, not equal: log entry 13). -/
abbrev Record.Expiring (r : Record) (a : StationId) : Prop := ∃ h ∈ r.holding a, ∃ n ∈ h.lease, n ≤ 1

/-- The notices a tick gives for the holdings of a record: REVOKED with the mode where the count reaches 0, else WARNING
where it comes to the class's warn value (R79 to R81). -/
def Record.heldNotices (r : Record) (warn : Byte) : List (StationId × Notice) :=
  allStations.filterMap fun a => match r.holding a with
    | none => none
    | some h => match h.lease with
      | none => none
      | some n =>
        if n ≤ 1 then some (a, ⟨.revoked, r.name, if h.mode = .shared then 0 else 1⟩)
        else if n = warn.toNat + 1 then some (a, ⟨.warning, r.name, warn⟩)
        else none

/-- The notice with which a tick ends a wait, if it ends: WITHDRAWN with cause LEASE where the lease of the holding under an
upgrade wait runs out (R67), else TIMED_OUT with the request where the deadline reaches 0 (R55, R56). -/
def Record.endedNotice (r : Record) (w : Waiter) : Option Notice :=
  if w.request = .upgrade ∧ r.Expiring w.station then some ⟨.withdrawn, r.name, 2⟩
  else match w.deadline with
    | .unlimited => none
    | .ticks n =>
      if n ≤ 1 then
        some ⟨.timedOut, r.name, match w.request with | .shared => 0 | .exclusive => 1 | .upgrade => 2⟩
      else none

/-- The tick removes a holding or a waiter entry of the record, so that the grant rule runs on it (R35, R57). -/
abbrev Record.TickEnds (r : Record) : Prop := (∃ a, r.Expiring a) ∨ ∃ w ∈ r.queue, r.endedNotice w ≠ none

/-- The record when the tick has made its changes to it, before the grant rule: the holdings whose count reaches 0 and the
entries whose wait ends are gone, every other lease and finite deadline is lowered by 1, and the taint is set by the
exclusive holding that expires (R55, R79, R81, R87). -/
def Record.countedDown (r : Record) : Record :=
  { r with
    holders := r.holders.map fun o => o.bind fun h => match h.lease with
      | none => some h
      | some n => if n ≤ 1 then none else some { h with lease := some (n - 1) }
    queue := r.queue.filterMap fun w => match r.endedNotice w with
      | some _ => none
      | none => some { w with deadline := match w.deadline with
        | .ticks n => .ticks (n - 1)
        | .unlimited => .unlimited }
    taint := match allStations.find? fun a => decide (r.Expiring a ∧ ∃ h ∈ r.holding a, h.mode = .exclusive) with
      | some a => some a
      | none => r.taint }

/-- The notice with which the tick ends a wait, if it ends, comes to enter. -/
def State.tellEnded (r : Record) (u : State) (w : Waiter) : State :=
  match r.endedNotice w with
  | some n => u.queueNotice w.station n
  | none => u

/-- The tick at one slot, in its order (R57, R73, R132): the notices of the holdings come to enter; the record is counted down
and each expired holder's holding count falls by 1; the notices of the ended waits come to enter; and where the tick removed
anything the grant rule runs once, its notices enter, and the retirement test is made. -/
def State.tickAt (s : State) (i : SlotId) : State :=
  match s.record i with
  | none => s
  | some r =>
    let judged := (r.heldNotices (s.leaseClass r.attrs.leaseClass).warn).foldl (fun u x => u.queueNotice x.1 x.2) s
    let counted :=
      { judged with
        slots := judged.slots.set i (some r.countedDown)
        holdingCounts := Vector.ofFn fun a => judged.holdingCount a - if r.Expiring a then 1 else 0 }
    let told := r.queue.foldl (State.tellEnded r) counted
    if r.TickEnds then told.settle i else told

/-- What a tick leaves in a slot that held a record: the record counted down, and, where the tick removed anything of it, one
run of the grant rule and the retirement test after that (R57, R73). -/
def State.TickLeaves (s t : State) (i : SlotId) (r : Record) : Prop :=
  (¬ r.TickEnds → t.record i = some r.countedDown)
    ∧ (r.TickEnds → ∃ batch r', GrantRun (loadedLease s r.attrs.leaseClass) r.countedDown batch r'
        ∧ (r'.ToRetire → t.record i = none) ∧ (¬ r'.ToRetire → t.record i = some r'))

/-- A notice comes to enter a station's queue during an event from s to t: it enters behind the notices that stood there, or
the queue was found full for it, at 7 or more, and NOTICE LOST is set (R134, R136). -/
def State.EntersOrLost (s t : State) (a : StationId) (n : Notice) : Prop :=
  (∃ new, (t.ctx a).notices = (s.ctx a).notices ++ new ∧ n ∈ new)
    ∨ ((t.ctx a).noticeLost = true ∧ 7 ≤ (t.ctx a).notices.length)

/-! ### Laws of one record -/

/-- Every depth is between 1 and 15 (R4). -/
def Record.depthsLawful (r : Record) : Bool :=
  allStations.all fun a => (r.holding a).all fun h => decide (1 ≤ h.depth ∧ h.depth ≤ 15)

/-- A record with an exclusive holding has no other holding (R5). -/
def Record.exclusiveAlone (r : Record) : Bool :=
  allStations.all fun a => allStations.all fun b =>
    a == b || !((r.holding a).any (·.mode == .exclusive)) || !r.holds b

/-- The grant rule would not grant the head of the queue (R39). -/
def Record.HeadHeldBack (r : Record) : Prop := ∀ w ∈ r.queue.head?, ¬ r.HeadGrantable w

/-- The record is standing, has a holding or a waiter, or is tainted (R21). -/
def Record.Justified (r : Record) : Prop := r.kind = .standing ∨ ¬ r.NoHolder ∨ r.queue ≠ [] ∨ r.taint ≠ none

/-- Every lease remaining is from 1 to the length, and present exactly where the length is above 0 (R75). -/
def Record.leasesWithin (r : Record) (length : Byte) : Bool :=
  allStations.all fun a => (r.holding a).all fun h =>
    match h.lease with
    | none => length == 0
    | some n => decide (1 ≤ n ∧ n ≤ length.toNat)

/-- No claim waiter holds the record it waits on (R6). -/
def Record.claimWaitersHoldNothing (r : Record) : Bool :=
  r.queue.all fun w => w.request == .upgrade || !r.holds w.station

/-- An upgrade waiter is a shared holder of the record and stands at the head of its queue (R6). -/
def Record.upgradeWaiterAtHeadOnly (r : Record) : Bool :=
  (r.queue.all fun w => w.request != .upgrade || (r.holding w.station).any (·.mode == .shared))
    && r.queue.tail.all (·.request != .upgrade)

/-- Every finite deadline remaining is from 1 to 254 (R50). -/
def Record.deadlinesLawful (r : Record) : Bool :=
  r.queue.all fun w => match w.deadline with
    | .ticks n => decide (1 ≤ n ∧ n ≤ 254)
    | .unlimited => true

/-! ### Laws of the table -/

/-- Every record in the table meets a law. -/
def State.EveryRecord (s : State) (p : Record → Prop) : Prop := ∀ i, ∀ r ∈ s.record i, p r

/-- Every record meets R75 for its class. -/
def State.LeasesLaw (s : State) : Prop :=
  s.EveryRecord fun r => r.leasesWithin (s.leaseClass r.attrs.leaseClass).length = true

/-- Each class has a warn value less than its length, or both 0 (R74, R160). -/
def State.ClassesLaw (s : State) : Prop :=
  ∀ k, (s.leaseClass k).warn.toNat < (s.leaseClass k).length.toNat
    ∨ ((s.leaseClass k).length = 0 ∧ (s.leaseClass k).warn = 0)

/-- No record has name 0 and no two records share a name (R1, R21). -/
def State.NamesLaw (s : State) : Prop :=
  ∀ i, ∀ r ∈ s.record i, r.name ≠ 0 ∧ ∀ j, ∀ r' ∈ s.record j, r'.name = r.name → j = i

/-- The number of STANDING records. -/
def State.standingRecords (s : State) : Nat := allSlots.countP fun i => (s.record i).any (·.kind == .standing)

/-- The standing count is the number of STANDING records, and at most 48 (R16). -/
def State.StandingLaw (s : State) : Prop := s.standingCount = s.standingRecords ∧ s.standingCount ≤ 48

/-- The number of records in which a station has a holding. -/
def State.recordsHeld (s : State) (st : StationId) : Nat := allSlots.countP fun i => (s.record i).any (·.holds st)

/-- The number of waiter entries of a station in all the queues. -/
def State.waiterEntries (s : State) (st : StationId) : Nat :=
  (allSlots.map fun i => match s.record i with
    | none => 0
    | some r => r.queue.countP (·.station == st)).sum

/-- A station has at most one wait (R6, R52). -/
def State.OneWaitLaw (s : State) : Prop := ∀ st, s.waiterEntries st ≤ 1

/-- Each holding count is the number of records holding the station, and no commitment exceeds 16 (R9, R31), in a
table that keeps R6. -/
def State.CountsLaw (s : State) : Prop :=
  (∀ st, s.holdingCount st = s.recordsHeld st) ∧ (∀ st, s.commitment st ≤ 16)
    ∧ s.OneWaitLaw ∧ s.EveryRecord (·.claimWaitersHoldNothing = true)

/-- The laws of the records as a table: a record is standing, held, waited on or tainted (R21); no two share a name and
none has name 0 (R1, R21); the standing count is right and at most 48 (R16). -/
def State.TableLaw (s : State) : Prop := s.EveryRecord Record.Justified ∧ s.NamesLaw ∧ s.StandingLaw

/-- The laws of the holdings and entries: depths from 1 to 15 (R4), an exclusive holding alone (R5), deadlines from 1 to
254 (R50), and leases within the class length (R75). -/
def State.HoldingsLaw (s : State) : Prop :=
  (s.EveryRecord fun r => r.depthsLawful = true ∧ r.exclusiveAlone = true ∧ r.deadlinesLawful = true) ∧ s.LeasesLaw

/-- A notice queue holds at most 8 notices, and at most 7 while its station has a wait outstanding (R135), in a table
where a station has at most one wait (R52). -/
def State.NoticesLaw (s : State) : Prop :=
  s.OneWaitLaw ∧ ∀ st, (s.ctx st).notices.length ≤ 8 ∧ (s.Waiting st → (s.ctx st).notices.length ≤ 7)

/-- Station a stands before station b (R60): b waits on a record, and a holds it and is not b, or a's entry is ahead of
b's. -/
def State.StandsBefore (s : State) (a b : StationId) : Prop :=
  ∃ i, ∃ r ∈ s.record i, r.waits b = true ∧ ((r.holding a ≠ none ∧ a ≠ b) ∨ ∃ w ∈ r.aheadOf b, w.station = a)

/-- A chain of one or more stations, each standing before the next, leads from a to b (R60). -/
def State.ChainTo (s : State) : StationId → StationId → Prop := Relation.TransGen s.StandsBefore

/-- The stands-before relation has no cycle (R61), where a station has at most one wait (R52). -/
def State.NoCycleLaw (s : State) : Prop := s.OneWaitLaw ∧ ∀ a, ¬ s.ChainTo a a

/-! ### Laws of the stations and of the lease unit -/

/-- The walk in a slot, if it carries one (R99). -/
def CommandSlot.walk : CommandSlot → Option Walk
  | .empty => none
  | .pending _ => none
  | .executing _ w => some w

/-- The table holds nothing of the station: no holding and no waiter entry. -/
def State.HoldsNothing (s : State) (st : StationId) : Prop :=
  s.EveryRecord fun r => r.holding st = none ∧ r.waits st = false

/-- A station's walk has done its work on the slots before its position: the station has no holding there, and no
waiter entry anywhere. -/
def State.Walked (s : State) (st : StationId) (p : SlotId) : Prop :=
  ∀ i, ∀ r ∈ s.record i, r.waits st = false ∧ (i < p → r.holding st = none)

/-- The station states agree with the slots, the walks and the table (R94, R95, R99, R102, R109): a station that is not
ONLINE has an empty notice queue; an OFFLINE station has no holding and no wait, and its slot no walk; a DETACHING
station's own slot carries its detach walk; a PURGING station's slot is EMPTY and the supervisor's slot carries the
purge walk against it; and every walk in a slot is one of these. With it, that a station has at most one wait (R52). -/
def State.StationsLaw (s : State) : Prop :=
  s.OneWaitLaw ∧ ∀ st,
    ((s.ctx st).life ≠ .online → (s.ctx st).notices = [])
    ∧ ((s.ctx st).life = .offline → s.HoldsNothing st ∧ (s.ctx st).slot.walk = none)
    ∧ ((s.ctx st).life = .detaching → ∃ w ∈ (s.ctx st).slot.walk, w.kind = .detach)
    ∧ ((s.ctx st).life = .purging → (s.ctx st).slot = .empty
        ∧ ∃ w ∈ (s.ctx 0).slot.walk, w.kind = .purge ∧ w.target = st)
    ∧ (∀ w ∈ (s.ctx st).slot.walk, s.Walked w.target w.position
        ∧ (w.kind = .detach → w.target = st ∧ (s.ctx st).life = .detaching)
        ∧ (w.kind = .purge → st = 0 ∧ w.target ≠ 0 ∧ (s.ctx 0).life = .online ∧ (s.ctx w.target).life = .purging))

/-- Every queue is as R6 says: no claim waiter holds its record, and an upgrade waiter is a shared holder at the head;
with the laws this rests on (R5, R39, R52, R95). -/
def State.QueuesLaw (s : State) : Prop :=
  s.StationsLaw ∧ s.EveryRecord fun r =>
    r.claimWaitersHoldNothing = true ∧ r.upgradeWaiterAtHeadOnly = true ∧ r.exclusiveAlone = true ∧ r.HeadHeldBack

/-- The prescaler count is from 0 to 1024 x (P + 1) - 1 (R70). -/
def State.PrescalerLaw (s : State) : Prop := s.lease.count < 1024 * (s.lease.p.toNat + 1)

/-- A fault record with no cause is clear (R126, R177). -/
def State.FaultsLaw (s : State) : Prop := ∀ st, (s.ctx st).fault.cause = none → (s.ctx st).fault = ⟨none, 0, false⟩

/-- The laws of the lease unit and of the fault records (R70, R74, R126). -/
def State.UnitLaw (s : State) : Prop := s.ClassesLaw ∧ s.PrescalerLaw ∧ s.FaultsLaw

end Sys2Proof.Machine
end

