-- ==== Sys2Proof/Certificates/Slice0/Obligations.lean ====
section
/-!
DEFINITION. The statements for the provers, in the order of OBLIGATIONS.json. Most results are given as one equality for the
whole next state, so that every field it does not name is stated to be unchanged.
-/

open Sys2Proof Sys2Proof.Machine

/-! ### The block and its queue -/

/-- O1. A step takes the command at the front of the queue and runs it on the state with the queue's rest. -/
def Obligations.StepTakesFrontCommand : Prop :=
  ∀ (c : Instr) (rest : List Instr) (s : State),
    step { s with pending := c :: rest } = exec c { s with pending := rest }

/-- O2. With no command waiting, a step is one CLK period of the lease unit (04 section 4.1; that a period passes
only then is the model's choice, log entries 4 and 6): while RUNNING the count rises by 1, and the completed count makes the
tick and starts again at 0. -/
def Obligations.IdleStepIsOneClkPeriod : Prop :=
  ∀ s : State, s.pending = [] →
    step s = .next
      (if s.resetPin = true ∨ s.lease.running = false then s
       else if s.lease.count + 1 < 1024 * (s.lease.p.toNat + 1) then
         { s with lease := { s.lease with count := s.lease.count + 1 } }
       else State.tickTable { s with lease := { s.lease with count := 0 } })

/-- O3. LEASE_TICK is what the remaining CLK periods of the prescaler make (04 R71; log entry 4). -/
def Obligations.LeaseTickIsRemainingClkPeriods : Prop :=
  ∀ (s : State) (n : Nat), s.pending = [] → s.resetPin = false → s.lease.running = true → 0 < n →
    s.lease.count + n = 1024 * (s.lease.p.toNat + 1) →
    Host.Core.run Sys2Proof.core n s = exec .leaseTick s

/-- O4. Every command answers a next state, and leaves the queue of waiting commands as it is (the queue is the model's own
field, log entry 1). -/
def Obligations.EveryCommandAnswersNext : Prop :=
  ∀ (i : Instr) (s : State), ∃ t, exec i s = .next t ∧ t.pending = s.pending

/-- O5. RESET high gives every piece of state its reset value, whatever was in progress; while it is high no other command and
no CLK period changes anything; RESET low again leaves the part in its reset state. -/
def Obligations.ResetHoldsAndRestores : Prop :=
  (∀ s : State, exec (.reset true) s = .next { State.reset with resetPin := true, pending := s.pending })
    ∧ (∀ s : State, exec (.reset false) s = .next { s with resetPin := false })
    ∧ (∀ (s : State) (i : Instr), s.resetPin = true → (∀ b, i ≠ .reset b) → exec i s = .next s)
    ∧ (∀ s : State, s.resetPin = true → s.pending = [] → step s = .next s)

/-- O6. After reset every offset of every window reads 0, but for the unassigned ones, which read 0xFF; every notice line is
released, the engine is idle, and the configuration is at its reset values. -/
def Obligations.WindowsAfterReset : Prop :=
  (∀ (st : StationId) (off : Offset), windowRead State.reset st off = if 22 ≤ off.val then 0xFF else 0)
    ∧ (∀ st : StationId, State.reset.lineLow st = false)
    ∧ State.reset.arbiter = none ∧ State.reset.turnPointer = 0
    ∧ (∀ i : SlotId, State.reset.record i = none) ∧ State.reset.standingCount = 0
    ∧ State.reset.defaults = ⟨0, true, 0xFF⟩
    ∧ State.reset.lease.p = 255 ∧ State.reset.lease.count = 0 ∧ State.reset.lease.running = false
    ∧ ∀ k : ClassId, State.reset.leaseClass k = ⟨0, 0⟩

/-! ### The command engine -/

/-- O7. The arbiter (R118): the turn goes to the first slot with work in the order of station number from the turn pointer,
wrapping from 7 to 0; a served turn sets the pointer to the station after the one served; nothing else but reset moves it. -/
def Obligations.ArbiterServesRotation : Prop :=
  (∀ s : State, s.arbiter = none ↔ ∀ a, (s.ctx a).slot = .empty)
    ∧ (∀ (s : State) (st : StationId), s.arbiter = some st ↔
        (s.ctx st).slot ≠ .empty
          ∧ ∀ a, (s.ctx a).slot ≠ .empty → (st - s.turnPointer).val ≤ (a - s.turnPointer).val)
    ∧ (∀ (s : State) (i : Instr) (st : StationId), s.resetPin = false → s.turnDue = some i → turnStation i = some st →
        s.arbiter = some st ∧ ∃ t, exec i s = .next t ∧ t.turnPointer = st + 1)
    ∧ (∀ (s t : State) (i : Instr), s.turnDue ≠ some i → (∀ b, i ≠ .reset b) → exec i s = .next t →
        t.turnPointer = s.turnPointer)
    ∧ State.reset.turnPointer = 0

/-- O8. The rotation bounds every wait for the engine (06 section 6.3): a slot with work comes strictly nearer to its turn at
every turn given to another slot, keeping its contents (but for the target of a purge), and no other event but reset moves it
away. -/
def Obligations.SlotWithWorkIsServedInRound : Prop :=
  ∀ (s t : State) (i : Instr) (a : StationId), s.resetPin = false → (s.ctx a).slot ≠ .empty → (∀ b, i ≠ .reset b) →
    exec i s = .next t → (turnStation i = some a → s.turnDue ≠ some i) →
    ((t.ctx a).slot = (s.ctx a).slot ∨ (t.ctx a).life = .purging)
      ∧ (s.turnDue = some i → (a - t.turnPointer).val < (a - s.turnPointer).val)
      ∧ (s.turnDue ≠ some i → t.turnPointer = s.turnPointer)

/-- O9. The model's choice (log entries 2, 4 and 5): an engine row that is not the next turn, an expiry that the next tick does
not bring, and a time-out that it does not bring are no events, and change nothing. The tick times no wait out of a station
all of whose entries have an UNLIMITED deadline, one of 2 or more, or end by withdrawal instead (R67); and while STOPPED there
is no tick, and so neither event. -/
def Obligations.EventNotDueChangesNothing : Prop :=
  (∀ (s : State) (i : Instr), turnStation i ≠ none → s.turnDue ≠ some i → exec i s = .next s)
    ∧ (∀ (s : State) (st : StationId) (i : SlotId),
        (∀ r ∈ s.record i, ∀ h ∈ r.holding st, ∀ n ∈ h.lease, 2 ≤ n) → exec (.leaseExpiry st i) s = .next s)
    ∧ (∀ (s : State) (st : StationId),
        (∀ i, ∀ r ∈ s.record i, ∀ w ∈ r.queue, w.station = st →
          w.deadline = .unlimited ∨ (∃ n, w.deadline = .ticks n ∧ 2 ≤ n) ∨ (w.request = .upgrade ∧ r.Expiring st)) →
        exec (.waitTimeOut st) s = .next s)
    ∧ (∀ (s : State) (st : StationId), ¬ s.Waiting st → exec (.waitTimeOut st) s = .next s)
    ∧ (∀ (s : State) (st : StationId) (i : SlotId), s.lease.running = false →
        exec .leaseTick s = .next s ∧ exec (.leaseExpiry st i) s = .next s ∧ exec (.waitTimeOut st) s = .next s)

/-- O10. The checks before a command's own (R120), in their order: BAD_COMMAND for a code that names no command, NOT_ONLINE for
every command but ATTACH from a station that is not ONLINE, NOT_PERMITTED for a supervisor command from a station other than
0; each completes the command and changes nothing else. With them the tables of 10 section 10.6: the eighteen codes that name
commands, and the value of every result code, of which bit 6 marks the refusals. -/
def Obligations.EntryChecksInOrder : Prop :=
  (∀ (c : Captured) (cmd : Command), c.command = some cmd ↔ (c.code, cmd) ∈
    [((0x01 : Byte), Command.attach), (0x02, .detach), (0x10, .claim), (0x11, .release), (0x12, .upgrade),
      (0x13, .downgrade), (0x14, .renew), (0x15, .cancel), (0x16, .clearTaint), (0x20, .inspect), (0x21, .listFirst),
      (0x22, .listNext), (0x30, .define), (0x31, .amend), (0x32, .retire), (0x33, .configure), (0x34, .purge),
      (0x35, .stationInfo)])
  ∧ (∀ (code : ResultCode) (b : Byte), code.byte = b ↔ (code, b) ∈
    [(ResultCode.none, (0x00 : Byte)), (.done, 0x01), (.granted, 0x02), (.queued, 0x03), (.unavailable, 0x04),
      (.noRecord, 0x05), (.endOfList, 0x06), (.badCommand, 0x40), (.badOperand, 0x41), (.badName, 0x42), (.badMode, 0x43),
      (.badState, 0x44), (.notOnline, 0x45), (.notPermitted, 0x46), (.denied, 0x47), (.notHolder, 0x48), (.noWait, 0x49),
      (.waitPending, 0x4A), (.deadlock, 0x4B), (.depthLimit, 0x4C), (.holdLimit, 0x4D), (.tableFull, 0x4E),
      (.standingFull, 0x4F), (.inUse, 0x50), (.noticeFull, 0x51), (.upgradePending, 0x52)])
  ∧ (∀ code : ResultCode, code.byte.getLsbD 6 = true ↔ 64 ≤ code.byte.toNat)
  ∧ ∀ (s : State) (st : StationId) (c : Captured), s.resetPin = false → s.arbiter = some st → (s.ctx st).slot = .pending c →
    (c.command = none → exec (.badCommand st) s = posted s st ⟨.badCommand, 0, 0, 0, 0⟩)
      ∧ (∀ cmd, c.command = some cmd → cmd ≠ .attach → (s.ctx st).life ≠ .online →
          exec (turnRow st c) s = posted s st ⟨.notOnline, 0, 0, 0, 0⟩)
      ∧ (∀ cmd, c.command = some cmd → (s.ctx st).life = .online →
          cmd ∈ [Command.define, .amend, .retire, .configure, .purge, .stationInfo] → st ≠ 0 →
          exec (turnRow st c) s = posted s st ⟨.notPermitted, 0, 0, 0, 0⟩)

/-- O11. A turn completes its command, or leaves a walk in the slot: the slot becomes EMPTY, RESULT READY is set and the code
is one that a command posts (not NONE); or the slot is EXECUTING and the result window is as before (06 sections 6.4 and 6.5). -/
def Obligations.TurnCompletesOrLeavesWalk : Prop :=
  ∀ (s t : State) (i : Instr) (st : StationId), s.resetPin = false → s.turnDue = some i → turnStation i = some st →
    exec i s = .next t →
    ((t.ctx st).slot = .empty ∧ (t.ctx st).resultReady = true ∧ (t.ctx st).result.code ≠ .none)
      ∨ ((∃ c w, (t.ctx st).slot = .executing c w)
          ∧ i ∈ [Instr.detach st, .detachWalkStep st, .purge st, .purgeWalkStep st]
          ∧ (t.ctx st).result = (s.ctx st).result ∧ (t.ctx st).resultReady = (s.ctx st).resultReady)

/-- O12. A refusal never changes table, queue or station state; it only posts its result code (R25): D0 to D3 are 0, but for
DEADLOCK, which defines D0. UNAVAILABLE and NO_RECORD obey the same. -/
def Obligations.RefusalOnlyPostsItsCode : Prop :=
  ∀ (s t : State) (i : Instr) (st : StationId) (c : Captured), s.resetPin = false → s.turnDue = some i →
    turnStation i = some st → (s.ctx st).slot = .pending c → exec i s = .next t → (t.ctx st).slot = .empty →
    (64 ≤ (t.ctx st).result.code.byte.toNat ∨ (t.ctx st).result.code = .unavailable
      ∨ (t.ctx st).result.code = .noRecord) →
    exec i s = posted s st (t.ctx st).result
      ∧ ((t.ctx st).result.code ≠ .deadlock → (t.ctx st).result = ⟨(t.ctx st).result.code, 0, 0, 0, 0⟩)
      ∧ ((t.ctx st).result.code = .deadlock → ∃ d0, (t.ctx st).result = ⟨.deadlock, d0, 0, 0, 0⟩)

/-! ### CLAIM and UPGRADE -/

/-- O13. The checks of a claim in the order of R24's table: the first that applies decides the outcome. -/
def Obligations.ClaimChecksInOrder : Prop :=
  ∀ (s : State) (st : StationId) (c : Captured), Due s st c .claim → s.NamesLaw → s.OneWaitLaw →
    ∃ t, exec (.claim st) s = .next t ∧ FirstApplies
      [(c.s2 ≠ 0 ∧ c.s2 ≠ 1, .badOperand),
       (c.name = 0, .badName),
       (s.Absent c.name ∧ s.TableFull, .tableFull),
       (s.Absent c.name ∧ 16 ≤ s.commitment st, .holdLimit),
       (s.Absent c.name ∧ c.s2 = 0 ∧ s.defaults.sharedAllowed = false, .badMode),
       (s.Absent c.name, .granted),
       (∃ i r, s.Named c.name i r ∧ r.attrs.permit.getLsbD st.val = false, .denied),
       (∃ i r, s.Named c.name i r ∧ c.s2 = 0 ∧ r.attrs.sharedAllowed = false, .badMode),
       (∃ i r h, s.Named c.name i r ∧ r.holding st = some h ∧ h.mode = .shared ∧ c.s2 = 1, .badMode),
       (∃ i r h, s.Named c.name i r ∧ r.holding st = some h ∧ 15 ≤ h.depth, .depthLimit),
       (∃ i r h, s.Named c.name i r ∧ r.holding st = some h, .granted),
       (16 ≤ s.commitment st, .holdLimit),
       (∃ i r, s.Named c.name i r ∧ r.GrantableNow (if c.s2 = 0 then .shared else .exclusive), .granted),
       (c.s3 = 0, .unavailable),
       (s.Waiting st, .waitPending),
       (8 ≤ (s.ctx st).notices.length, .noticeFull),
       (∃ i r b, s.Named c.name i r ∧ (r.holding b ≠ none ∨ ∃ w ∈ r.queue, w.station = b) ∧ s.ChainTo st b, .deadlock),
       (True, .queued)]
      (t.ctx st).result.code

/-- O14. A claim of an absent name that passes its checks creates the record of R13 in the lowest free slot and grants the
claimant; D0 is 1, D1 the mode, D2 0 and D3 the length of the default class (R13, R26). -/
def Obligations.ClaimOfAbsentNameCreates : Prop :=
  ∀ (s : State) (st : StationId) (c : Captured) (m : Mode) (i : SlotId), Due s st c .claim → c.s2 = m.byte →
    c.name ≠ 0 → s.Absent c.name → s.LowestFree i → s.commitment st < 16 →
    (m = .shared → s.defaults.sharedAllowed = true) →
    exec (.claim st) s =
      posted
        ((s.setRecord i (some
            { name := c.name
              kind := .transient
              attrs := s.defaults
              holders := (Vector.replicate 8 none).set st (some ⟨m, 1, loadedLease s s.defaults.leaseClass⟩)
              queue := []
              taint := none })).setCount st (s.holdingCount st + 1))
        st ⟨.granted, 1, m.byte, 0, (s.leaseClass s.defaults.leaseClass).length⟩

/-- O15. A claim of a record the station holds re-enters it: the depth rises by 1, the lease is reloaded, and the mode, the
holding count, the queue and the taint stay (R29). -/
def Obligations.ClaimReentersHolding : Prop :=
  ∀ (s : State) (st : StationId) (c : Captured) (m : Mode) (i : SlotId) (r : Record) (h : Holding),
    Due s st c .claim → s.NamesLaw → c.s2 = m.byte → s.Named c.name i r → r.attrs.permit.getLsbD st.val = true →
    (m = .shared → r.attrs.sharedAllowed = true) → r.holding st = some h → (m = .exclusive → h.mode = .exclusive) →
    h.depth ≤ 14 →
    exec (.claim st) s =
      posted
        (s.setRecord i (some
          { r with holders := r.holders.set st (some ⟨h.mode, h.depth + 1, loadedLease s r.attrs.leaseClass⟩) }))
        st ⟨.granted, BitVec.ofNat 8 (h.depth + 1), h.mode.byte, if r.taint = none then 0 else 1,
          (s.leaseClass r.attrs.leaseClass).length⟩

/-- O16. A claim that is grantable now is granted at once: a new holding of depth 1, loaded, and the holding count raised by 1;
no other station's state changes (R32, R33). -/
def Obligations.ClaimGrantedAtOnce : Prop :=
  ∀ (s : State) (st : StationId) (c : Captured) (m : Mode) (i : SlotId) (r : Record),
    Due s st c .claim → s.NamesLaw → c.s2 = m.byte → s.Named c.name i r → r.attrs.permit.getLsbD st.val = true →
    (m = .shared → r.attrs.sharedAllowed = true) → r.holding st = none → s.commitment st < 16 → r.GrantableNow m →
    exec (.claim st) s =
      posted
        ((s.setRecord i (some
            { r with holders := r.holders.set st (some ⟨m, 1, loadedLease s r.attrs.leaseClass⟩) })).setCount
          st (s.holdingCount st + 1))
        st ⟨.granted, 1, m.byte, if r.taint = none then 0 else 1, (s.leaseClass r.attrs.leaseClass).length⟩

/-- O17. A claim that no check stops is queued at the tail, with D0 its position; the station then waits, on this name, and its
commitment is 1 more (R51). -/
def Obligations.ClaimQueuedAtTail : Prop :=
  ∀ (s : State) (st : StationId) (c : Captured) (m : Mode) (i : SlotId) (r : Record),
    Due s st c .claim → s.NamesLaw → s.OneWaitLaw → c.s2 = m.byte → s.Named c.name i r →
    r.attrs.permit.getLsbD st.val = true → (m = .shared → r.attrs.sharedAllowed = true) → r.holding st = none →
    s.commitment st < 16 → ¬ r.GrantableNow m → c.s3 ≠ 0 → ¬ s.Waiting st → (s.ctx st).notices.length < 8 →
    (∀ b, (r.holding b ≠ none ∨ ∃ w ∈ r.queue, w.station = b) → ¬ s.ChainTo st b) →
    ∃ t, exec (.claim st) s = .next t
      ∧ exec (.claim st) s =
          posted
            (s.setRecord i (some
              { r with queue := r.queue ++
                  [⟨st, if m = .shared then .shared else .exclusive,
                    if c.s3 = 255 then .unlimited else .ticks c.s3.toNat⟩] }))
            st ⟨.queued, BitVec.ofNat 8 (r.queue.length + 1), 0, 0, 0⟩
      ∧ t.Waiting st ∧ t.hasWait st = true ∧ t.waitName st = c.name ∧ t.commitment st = s.commitment st + 1

/-- O18. The checks of an upgrade in the order of R47's table. -/
def Obligations.UpgradeChecksInOrder : Prop :=
  ∀ (s : State) (st : StationId) (c : Captured), Due s st c .upgrade → s.NamesLaw → s.OneWaitLaw →
    ∃ t, exec (.upgrade st) s = .next t ∧ FirstApplies
      [(c.name = 0, .badName),
       (¬ ∃ i r h, s.Named c.name i r ∧ r.holding st = some h, .notHolder),
       (∃ i r, s.Named c.name i r ∧ r.attrs.permit.getLsbD st.val = false, .denied),
       (∃ i r h, s.Named c.name i r ∧ r.holding st = some h ∧ h.mode = .exclusive, .badMode),
       (∃ i r, s.Named c.name i r ∧ r.OnlyHolder st, .granted),
       (c.s3 = 0, .unavailable),
       (s.Waiting st, .waitPending),
       (8 ≤ (s.ctx st).notices.length, .noticeFull),
       (∃ i r b, s.Named c.name i r ∧ (r.holding b ≠ none ∧ b ≠ st) ∧ s.ChainTo st b, .deadlock),
       (True, .queued)]
      (t.ctx st).result.code

/-- O19. An upgrade by the only holder takes effect at once (R48): the holding becomes EXCLUSIVE, its depth is kept and its
lease reloaded; the queue, the taint and every count stay. -/
def Obligations.UpgradeOfOnlyHolderAtOnce : Prop :=
  ∀ (s : State) (st : StationId) (c : Captured) (i : SlotId) (r : Record) (h : Holding),
    Due s st c .upgrade → s.NamesLaw → s.Named c.name i r → r.holding st = some h → h.mode = .shared →
    r.attrs.permit.getLsbD st.val = true → r.OnlyHolder st →
    exec (.upgrade st) s =
      posted
        (s.setRecord i (some
          { r with holders := r.holders.set st (some ⟨.exclusive, h.depth, loadedLease s r.attrs.leaseClass⟩) }))
        st ⟨.granted, BitVec.ofNat 8 h.depth, 1, if r.taint = none then 0 else 1,
          (s.leaseClass r.attrs.leaseClass).length⟩

/-- O20. An upgrade that no check stops is queued at the head (R53): every entry moves back, the station keeps its shared
holding and its commitment, and D0 is 1. -/
def Obligations.UpgradeQueuedAtHead : Prop :=
  ∀ (s : State) (st : StationId) (c : Captured) (i : SlotId) (r : Record) (h : Holding),
    Due s st c .upgrade → s.NamesLaw → s.OneWaitLaw → s.Named c.name i r → r.holding st = some h → h.mode = .shared →
    r.attrs.permit.getLsbD st.val = true → ¬ r.OnlyHolder st → c.s3 ≠ 0 → ¬ s.Waiting st →
    (s.ctx st).notices.length < 8 → (∀ b, r.holding b ≠ none → b ≠ st → ¬ s.ChainTo st b) →
    ∃ t, exec (.upgrade st) s = .next t
      ∧ exec (.upgrade st) s =
          posted
            (s.setRecord i (some
              { r with queue :=
                  ⟨st, .upgrade, if c.s3 = 255 then .unlimited else .ticks c.s3.toNat⟩ :: r.queue }))
            st ⟨.queued, 1, 0, 0, 0⟩
      ∧ t.Waiting st ∧ t.hasWait st = true ∧ t.waitName st = c.name ∧ t.commitment st = s.commitment st

/-- O21. The deadlock probe finds what it should (R62 to R64): a claim or upgrade is answered DEADLOCK with D0 the
lowest-numbered direct blocker from which a chain of stations, each standing before the next, leads back to the requester; and
one that is queued has no such blocker. -/
def Obligations.DeadlockNamesLowestBlocker : Prop :=
  ∀ (s t : State) (st : StationId) (c : Captured) (i : SlotId) (r : Record), s.NamesLaw → s.OneWaitLaw →
    s.Named c.name i r →
    (Due s st c .claim → exec (.claim st) s = .next t →
      ((t.ctx st).result.code = .deadlock →
        ∃ b, (t.ctx st).result = ⟨.deadlock, BitVec.ofNat 8 b.val, 0, 0, 0⟩
          ∧ (r.holding b ≠ none ∨ ∃ w ∈ r.queue, w.station = b) ∧ s.ChainTo st b
          ∧ ∀ a, a < b → (r.holding a ≠ none ∨ ∃ w ∈ r.queue, w.station = a) → ¬ s.ChainTo st a)
      ∧ ((t.ctx st).result.code = .queued →
          ∀ a, (r.holding a ≠ none ∨ ∃ w ∈ r.queue, w.station = a) → ¬ s.ChainTo st a))
    ∧ (Due s st c .upgrade → exec (.upgrade st) s = .next t →
      ((t.ctx st).result.code = .deadlock →
        ∃ b, (t.ctx st).result = ⟨.deadlock, BitVec.ofNat 8 b.val, 0, 0, 0⟩
          ∧ r.holding b ≠ none ∧ b ≠ st ∧ s.ChainTo st b
          ∧ ∀ a, a < b → r.holding a ≠ none → a ≠ st → ¬ s.ChainTo st a)
      ∧ ((t.ctx st).result.code = .queued → ∀ a, r.holding a ≠ none → a ≠ st → ¬ s.ChainTo st a))

/-! ### RELEASE, DOWNGRADE, RENEW, CLEAR TAINT and CANCEL -/

/-- O22. RELEASE (R41, R42): its checks in order; a depth above 1 falls by 1 and nothing else changes; at depth 1 the holding
is removed, the holding count falls by 1, and the grant rule and the retirement test follow. -/
def Obligations.ReleaseLowersOrRemoves : Prop :=
  ∀ (s : State) (st : StationId) (c : Captured), Due s st c .release → s.NamesLaw →
    (∃ t, exec (.release st) s = .next t ∧ FirstApplies
      [(c.name = 0, .badName),
       (¬ ∃ i r h, s.Named c.name i r ∧ r.holding st = some h, .notHolder),
       (∃ i r h, s.Named c.name i r ∧ r.holding st = some h ∧ h.depth ≤ 1 ∧ r.UpgradeWaiter st, .upgradePending),
       (True, .done)]
      (t.ctx st).result.code)
    ∧ (∀ i r h, s.Named c.name i r → r.holding st = some h → 2 ≤ h.depth →
        exec (.release st) s =
          posted (s.setRecord i (some { r with holders := r.holders.set st (some ⟨h.mode, h.depth - 1, h.lease⟩) }))
            st ⟨.done, BitVec.ofNat 8 (h.depth - 1), 0, 0, 0⟩)
    ∧ (∀ i r h, s.Named c.name i r → r.holding st = some h → h.depth = 1 → ¬ r.UpgradeWaiter st →
        exec (.release st) s =
          posted
            (((s.setRecord i (some { r with holders := r.holders.set st none })).setCount st (s.holdingCount st - 1)).settle i)
            st ⟨.done, 0, 0, 0, 0⟩)

/-- O23. DOWNGRADE (R45, R46): its checks in order; an exclusive holding becomes SHARED with its depth and lease kept, and the
grant rule runs. -/
def Obligations.DowngradeMakesShared : Prop :=
  ∀ (s : State) (st : StationId) (c : Captured), Due s st c .downgrade → s.NamesLaw →
    (∃ t, exec (.downgrade st) s = .next t ∧ FirstApplies
      [(c.name = 0, .badName),
       (¬ ∃ i r h, s.Named c.name i r ∧ r.holding st = some h, .notHolder),
       (∃ i r h, s.Named c.name i r ∧ r.holding st = some h ∧ h.mode = .shared, .badMode),
       (∃ i r, s.Named c.name i r ∧ r.attrs.sharedAllowed = false, .badMode),
       (True, .done)]
      (t.ctx st).result.code)
    ∧ (∀ i r h, s.Named c.name i r → r.holding st = some h → h.mode = .exclusive → r.attrs.sharedAllowed = true →
        exec (.downgrade st) s =
          posted ((s.setRecord i (some { r with holders := r.holders.set st (some ⟨.shared, h.depth, h.lease⟩) })).settle i)
            st ⟨.done, BitVec.ofNat 8 h.depth, 0, 0, 0⟩)

/-- O24. RENEW and CLEAR TAINT (R78, R88): the checks of each in order; RENEW reloads the lease to the full length of the class
and reports it in D0; CLEAR TAINT by the exclusive holder clears the record's taint, with D0 the flag and D1 the revoked station
as they stood before. -/
def Obligations.RenewAndClearTaint : Prop :=
  ∀ (s : State) (st : StationId) (c : Captured), s.NamesLaw →
    (Due s st c .renew →
      (∃ t, exec (.renew st) s = .next t ∧ FirstApplies
        [(c.name = 0, .badName),
         (¬ ∃ i r h, s.Named c.name i r ∧ r.holding st = some h, .notHolder),
         (True, .done)]
        (t.ctx st).result.code)
      ∧ (∀ i r h, s.Named c.name i r → r.holding st = some h →
          exec (.renew st) s =
            posted
              (s.setRecord i (some
                { r with holders := r.holders.set st (some ⟨h.mode, h.depth, loadedLease s r.attrs.leaseClass⟩) }))
              st ⟨.done, (s.leaseClass r.attrs.leaseClass).length, 0, 0, 0⟩))
    ∧ (Due s st c .clearTaint →
      (∃ t, exec (.clearTaint st) s = .next t ∧ FirstApplies
        [(c.name = 0, .badName),
         (¬ ∃ i r h, s.Named c.name i r ∧ r.holding st = some h, .notHolder),
         (∃ i r h, s.Named c.name i r ∧ r.holding st = some h ∧ h.mode = .shared, .badMode),
         (True, .done)]
        (t.ctx st).result.code)
      ∧ (∀ i r h, s.Named c.name i r → r.holding st = some h → h.mode = .exclusive →
          (r.taint = none → exec (.clearTaint st) s = posted s st ⟨.done, 0, 0, 0, 0⟩)
          ∧ (∀ a, r.taint = some a → exec (.clearTaint st) s =
              posted (s.setRecord i (some { r with taint := none })) st ⟨.done, 1, BitVec.ofNat 8 a.val, 0, 0⟩)))

/-- O25. CANCEL (R58): NO_WAIT with no change where the station has no wait; else its entry leaves the queue, the grant rule
runs on the record, and the result is DONE. -/
def Obligations.CancelEndsTheWait : Prop :=
  ∀ (s : State) (st : StationId) (c : Captured), Due s st c .cancel → s.OneWaitLaw →
    (¬ s.Waiting st → exec (.cancel st) s = posted s st ⟨.noWait, 0, 0, 0, 0⟩)
    ∧ (∀ i r w, s.record i = some r → w ∈ r.queue → w.station = st →
        exec (.cancel st) s =
          posted
            ((s.setRecord i (some { r with queue := r.queue.filter fun w => decide (w.station ≠ st) })).settle i)
            st ⟨.done, 0, 0, 0, 0⟩)

/-! ### The grant rule and the admission of notices -/

/-- O26. What follows a removal (R36 to R38, R40, R17): one run of the grant rule on the record; the holding count of every claim
waiter granted rises by 1; a GRANTED notice is queued for each station granted that is ONLINE; then a transient record left
idle, untainted and without waiters is retired. Nothing else of the part changes. -/
def Obligations.GrantRuleRunsThenRetirement : Prop :=
  ∀ (s : State) (i : SlotId) (r : Record), s.record i = some r →
    ∃ batch r', GrantRun (loadedLease s r.attrs.leaseClass) r batch r'
      ∧ (r'.ToRetire → (s.settle i).record i = none)
      ∧ (¬ r'.ToRetire → (s.settle i).record i = some r')
      ∧ (∀ j, j ≠ i → (s.settle i).record j = s.record j)
      ∧ (∀ a, (s.settle i).holdingCount a =
          s.holdingCount a + batch.countP fun w => decide (w.station = a ∧ w.request ≠ .upgrade))
      ∧ (∀ a, (s.settle i).ctx a = { s.ctx a with notices := (s.ctx a).notices ++
          if (s.ctx a).life = .online then
            (batch.filter fun w => decide (w.station = a)).map fun w =>
              ⟨.granted, r.name, grantedDetail (if w.request = .shared then .shared else .exclusive) r.taint⟩
          else [] })
      ∧ s.settle i = { s with
          slots := (s.settle i).slots, holdingCounts := (s.settle i).holdingCounts, stations := (s.settle i).stations }

/-- O27. The admission of a notice (R133, R134, R136): discarded where the station is not ONLINE; a wait outcome always
admitted; REVOKED and WARNING admitted below 8 notices, or below 7 while a wait is outstanding, and otherwise discarded with
NOTICE LOST set. -/
def Obligations.NoticeAdmissionRule : Prop :=
  ∀ (s : State) (a : StationId) (n : Notice),
    ((s.ctx a).life ≠ .online → s.queueNotice a n = s)
    ∧ ((s.ctx a).life = .online →
        (n.kind = .granted ∨ n.kind = .timedOut ∨ n.kind = .withdrawn
          ∨ (¬ s.Waiting a ∧ (s.ctx a).notices.length < 8) ∨ (s.Waiting a ∧ (s.ctx a).notices.length < 7)) →
        s.queueNotice a n = s.modifyCtx a fun x => { x with notices := x.notices ++ [n] })
    ∧ ((s.ctx a).life = .online → (n.kind = .revoked ∨ n.kind = .warning) →
        ((¬ s.Waiting a ∧ 8 ≤ (s.ctx a).notices.length) ∨ (s.Waiting a ∧ 7 ≤ (s.ctx a).notices.length)) →
        s.queueNotice a n = s.modifyCtx a fun x => { x with noticeLost := true })

/-! ### The lease tick -/

/-- O28. LEASE_TICK (04 sections 4.1 and 4.4, 03 section 3.4). While RUNNING the tick is made and the count is 0 (the row stands
for the CLK periods left, log entry 4); it is the tick at each slot in ascending order, as `State.tickAt` has it, and nothing
more. So in every record every lease and every finite deadline falls by 1, the holdings and waits that come to 0 end, and
where any ends the grant rule runs once and the retirement test follows; where nothing ends, nothing else of the record
changes. A count that comes to a warn value above 0 gives its holder a WARNING, or NOTICE LOST, where it is ONLINE; free slots
stay free, and no configuration, mask, result or slot of a station changes. While STOPPED nothing changes. -/
def Obligations.LeaseTickCountsDown : Prop :=
  ∀ s : State, s.resetPin = false →
    (s.lease.running = false → exec .leaseTick s = .next s)
    ∧ (s.lease.running = true → ∃ t, exec .leaseTick s = .next t
        ∧ t = { s with
            slots := t.slots, holdingCounts := t.holdingCounts, stations := t.stations,
            lease := { s.lease with count := 0 } }
        ∧ t = allSlots.foldl State.tickAt { s with lease := { s.lease with count := 0 } }
        ∧ (∀ i r, s.record i = some r → s.TickLeaves t i r)
        ∧ (∀ a, t.ctx a = { s.ctx a with notices := (t.ctx a).notices, noticeLost := (t.ctx a).noticeLost })
        ∧ (∀ a, (s.ctx a).life ≠ .online → t.ctx a = s.ctx a)
        ∧ (∀ i, s.record i = none → t.record i = none)
        ∧ (∀ i r, s.record i = some r →
            (∀ a, ∀ h ∈ r.holding a, ∀ n ∈ h.lease, 2 ≤ n) →
            (∀ w ∈ r.queue, ∀ n, w.deadline = .ticks n → 2 ≤ n) →
            t.record i = some { r with
              holders := r.holders.map fun o => o.map fun h => { h with lease := h.lease.map (· - 1) },
              queue := r.queue.map fun w => { w with deadline := match w.deadline with
                | .ticks n => .ticks (n - 1)
                | .unlimited => .unlimited } })
        ∧ (∀ i r a h n, s.record i = some r → r.holding a = some h → h.lease = some n → 2 ≤ n →
            n - 1 = (s.leaseClass r.attrs.leaseClass).warn.toNat → (s.ctx a).life = .online →
            s.EntersOrLost t a ⟨.warning, r.name, (s.leaseClass r.attrs.leaseClass).warn⟩))

/-- O29. LEASE_EXPIRY (R81; the row is the whole tick, log entry 5): the holding leaves the record; an exclusive one leaves the
taint set with its station, and the record stays; where every holding is shared the taint is as it was; the record is counted
down, the grant rule runs on it once and the retirement test follows; a REVOKED notice with the mode held is queued for an
ONLINE holder, or NOTICE LOST is set; a station that is not ONLINE gets nothing. -/
def Obligations.LeaseExpiryRemovesHolding : Prop :=
  ∀ (s : State) (a : StationId) (i : SlotId) (r : Record) (h : Holding), s.resetPin = false → s.lease.running = true →
    s.record i = some r → r.holding a = some h → h.lease = some 1 → r.claimWaitersHoldNothing = true →
    ∃ t, exec (.leaseExpiry a i) s = .next t ∧ exec .leaseTick s = .next t
      ∧ r.TickEnds ∧ s.TickLeaves t i r
      ∧ (∀ r' ∈ t.record i, r'.holding a = none)
      ∧ (h.mode = .exclusive → r.exclusiveAlone = true → ∃ r', t.record i = some r' ∧ r'.taint = some a)
      ∧ (r.NoExclusiveHolder → ∀ r' ∈ t.record i, r'.taint = r.taint)
      ∧ ((s.ctx a).life = .online →
          s.EntersOrLost t a ⟨.revoked, r.name, if h.mode = .shared then 0 else 1⟩)
      ∧ ((s.ctx a).life ≠ .online → t.ctx a = s.ctx a)

/-- O30. WAIT_TIME_OUT (R56; the row is the whole tick, log entry 5): the wait ends, and a TIMED_OUT notice with the request of
the ended entry is queued; the record is counted down, the grant rule runs on it once and the retirement test follows; a
station whose claim wait times out holds nothing of the record, and one whose upgrade wait times
out keeps its shared holding. -/
def Obligations.WaitTimeOutEndsWait : Prop :=
  ∀ (s : State) (a : StationId) (i : SlotId) (r : Record) (w : Waiter), s.resetPin = false → s.lease.running = true →
    s.OneWaitLaw → s.record i = some r → w ∈ r.queue → w.station = a → w.deadline = .ticks 1 →
    (w.request = .upgrade → ∀ h ∈ r.holding a, ∀ n ∈ h.lease, 2 ≤ n) →
    ∃ t, exec (.waitTimeOut a) s = .next t ∧ exec .leaseTick s = .next t
      ∧ r.TickEnds ∧ s.TickLeaves t i r
      ∧ ¬ t.Waiting a
      ∧ ((s.ctx a).life = .online → ∃ new, (t.ctx a).notices = (s.ctx a).notices ++ new
          ∧ ⟨.timedOut, r.name, match w.request with | .shared => 0 | .exclusive => 1 | .upgrade => 2⟩ ∈ new)
      ∧ (r.holding a = none → ∀ r' ∈ t.record i, r'.holding a = none)
      ∧ (∀ h, w.request = .upgrade → r.holding a = some h →
          ∃ r', t.record i = some r' ∧ r'.holding a = some { h with lease := h.lease.map (· - 1) })

/-- O31. The lease of a shared holding runs out under its station's upgrade wait (R67): the holding and the wait both end at
the tick; the WITHDRAWN notice with cause LEASE and request UPGRADE stands directly behind the REVOKED notice, where that was
admitted; and no TIMED_OUT notice is queued, even where the deadline reaches 0 at the same tick. -/
def Obligations.ExpiryWithdrawsUpgradeWait : Prop :=
  ∀ (s : State) (a : StationId) (i : SlotId) (r : Record) (w : Waiter) (h : Holding), s.resetPin = false →
    s.lease.running = true → s.OneWaitLaw → s.record i = some r → w ∈ r.queue → w.station = a → w.request = .upgrade →
    r.holding a = some h → h.mode = .shared → h.lease = some 1 → (s.ctx a).life = .online →
    ∃ t, exec .leaseTick s = .next t ∧ ¬ t.Waiting a
      ∧ (∀ r' ∈ t.record i, r'.holding a = none)
      ∧ (∃ pre post,
          (t.ctx a).notices = pre ++ ⟨.revoked, r.name, 0⟩ :: ⟨.withdrawn, r.name, 2⟩ :: post
            ∨ ((t.ctx a).noticeLost = true ∧ (t.ctx a).notices = pre ++ ⟨.withdrawn, r.name, 2⟩ :: post))
      ∧ (t.ctx a).notices.countP (fun n => decide (n.kind = .timedOut))
          = (s.ctx a).notices.countP (fun n => decide (n.kind = .timedOut))

/-! ### Stations and walks -/

/-- O32. ATTACH (R96): an OFFLINE station becomes ONLINE with its NOTICE LOST cleared, and D0 is its number; an ONLINE one is
refused BAD_STATE. -/
def Obligations.AttachBringsOnline : Prop :=
  ∀ (s : State) (st : StationId) (c : Captured), Due s st c .attach →
    ((s.ctx st).life = .offline →
      exec (.attach st) s =
        posted (s.modifyCtx st fun x => { x with life := .online, noticeLost := false })
          st ⟨.done, BitVec.ofNat 8 st.val, 0, 0, 0⟩)
    ∧ ((s.ctx st).life = .online → exec (.attach st) s = posted s st ⟨.badState, 0, 0, 0, 0⟩)

/-- O33. The first turn of a DETACH (R98), in its order: DETACHING; the wait ended and the grant rule run; the notice queue
emptied and the cursor cleared; the walk set up and its step on slot 0 taken. -/
def Obligations.DetachFirstTurnInOrder : Prop :=
  ∀ (s : State) (st : StationId) (c : Captured), Due s st c .detach → s.OneWaitLaw →
    ∃ u v removed tainted,
      WaitEnded (s.modifyCtx st fun x => { x with life := .detaching }) st u
      ∧ WalkStepped .detach st 0 (u.modifyCtx st fun x => { x with notices := [], cursor := none }) v removed tainted
      ∧ exec (.detach st) s =
          .next { v.modifyCtx st (fun x => { x with slot := .executing c ⟨.detach, st, 1, removed, 0⟩ }) with
            turnPointer := st + 1 }

/-- O34. PURGE (R104 to R106): BAD_OPERAND for an S3 of 0 or above 7; BAD_STATE for a target that is not ONLINE; else the target's
context is cleared (but for its staging bytes, last code, notice window and NOTICE LOST), its wait ended, its state PURGING, and
the walk set up in the supervisor's slot with its step on slot 0 taken. -/
def Obligations.PurgeChecksAndFirstTurn : Prop :=
  ∀ (s : State) (c : Captured), Due s 0 c .purge →
    ((c.s3 = 0 ∨ 7 < c.s3.toNat) → exec (.purge 0) s = posted s 0 ⟨.badOperand, 0, 0, 0, 0⟩)
    ∧ (∀ target : StationId, target ≠ 0 → c.s3.toNat = target.val → (s.ctx target).life ≠ .online →
        exec (.purge 0) s = posted s 0 ⟨.badState, 0, 0, 0, 0⟩)
    ∧ (∀ target : StationId, target ≠ 0 → c.s3.toNat = target.val → (s.ctx target).life = .online → s.OneWaitLaw →
        ∃ u v removed tainted,
          WaitEnded
            (s.modifyCtx target fun x =>
              { x with
                slot := .empty
                result := ⟨.none, 0, 0, 0, 0⟩
                resultReady := false
                notices := []
                mask := 0
                fault := ⟨none, 0, false⟩
                cursor := none })
            target u
          ∧ WalkStepped .purge target 0 (u.modifyCtx target fun x => { x with life := .purging }) v removed tainted
          ∧ exec (.purge 0) s =
              .next { v.modifyCtx 0 (fun x => { x with slot := .executing c ⟨.purge, target, 1, removed, tainted⟩ }) with
                turnPointer := 1 })

/-- O35. A later turn of a walk (R100, R101, R107, R108): the slot at the walk position is examined and the position rises by 1; the
step on slot 63 makes the target OFFLINE and posts DONE, with D0 the holdings released or revoked and, for a purge, D1 the
records tainted. -/
def Obligations.WalkStepTakesSlot : Prop :=
  ∀ (s : State) (st : StationId) (c : Captured) (w : Walk), s.resetPin = false → s.arbiter = some st →
    (s.ctx st).slot = .executing c w →
    ∃ v removed tainted, WalkStepped w.kind w.target w.position s v removed tainted
      ∧ (w.position = 63 → w.kind = .detach →
          exec (.detachWalkStep st) s =
            posted (v.modifyCtx w.target fun x => { x with life := .offline })
              st ⟨.done, BitVec.ofNat 8 (w.removed + removed), 0, 0, 0⟩)
      ∧ (w.position = 63 → w.kind = .purge →
          exec (.purgeWalkStep st) s =
            posted (v.modifyCtx w.target fun x => { x with life := .offline })
              st ⟨.done, BitVec.ofNat 8 (w.removed + removed), BitVec.ofNat 8 (w.tainted + tainted), 0, 0⟩)
      ∧ (w.position ≠ 63 →
          exec (match w.kind with | .detach => .detachWalkStep st | .purge => .purgeWalkStep st) s =
            .next { v.modifyCtx st (fun x =>
                { x with
                  slot := .executing c
                    ⟨w.kind, w.target, w.position + 1, w.removed + removed, w.tainted + tainted⟩ }) with
              turnPointer := st + 1 })

/-! ### Configuration and standing records -/

/-- O36. CONFIGURE of a lease class (R161, R162, R85): refused BAD_OPERAND where the warn value is not less than the length and the
pair is not 0 and 0; else the entry is stored, every holding of every record of the class is refitted, and D0 and D1 are the
earlier entry. The selectors 7 to 255 are refused BAD_OPERAND (by this row: log entry 3). -/
def Obligations.ConfigureClassStoresAndRefits : Prop :=
  ∀ (s : State) (st : StationId) (c : Captured), Due s st c .configure →
    (7 ≤ c.s0.toNat → exec (.configureClass st) s = posted s st ⟨.badOperand, 0, 0, 0, 0⟩)
    ∧ (∀ k : ClassId, c.s0.toNat = k.val →
        (c.s2.toNat ≤ c.s3.toNat → ¬ (c.s2 = 0 ∧ c.s3 = 0) →
          exec (.configureClass st) s = posted s st ⟨.badOperand, 0, 0, 0, 0⟩)
        ∧ (c.s3.toNat < c.s2.toNat ∨ (c.s2 = 0 ∧ c.s3 = 0) →
          exec (.configureClass st) s =
            posted
              { s with
                slots := s.slots.map fun o => o.map fun r =>
                  if r.attrs.leaseClass = k then { r with holders := r.holders.map fun o => o.map (refitted c.s2) } else r
                lease := { s.lease with classes := s.lease.classes.set k ⟨c.s2, c.s3⟩ } }
              st ⟨.done, (s.leaseClass k).length, (s.leaseClass k).warn, 0, 0⟩))

/-- O37. The other selectors of CONFIGURE (R72, R161, R163, R164). P is stored and the count set to 0, with D0 the earlier P; a
start sets the count to 0, a start while RUNNING leaves it, a stop leaves it where it stands, with D0 the earlier flag; any
other setting is refused BAD_OPERAND. The transient defaults are refused BAD_OPERAND where S2 has a bit set outside its fields;
else class, shared allowed and mask are stored, D0 is the earlier class and setting in the layout of S2, and D1 the earlier
mask. -/
def Obligations.ConfigureTimingAndDefaults : Prop :=
  ∀ (s : State) (st : StationId) (c : Captured), Due s st c .configure →
    (c.s0 = 4 → exec (.configurePrescaler st) s =
      posted { s with lease := { s.lease with p := c.s2, count := 0 } } st ⟨.done, s.lease.p, 0, 0, 0⟩)
    ∧ (c.s0 = 5 → c.s2 = 1 → s.lease.running = false → exec (.configureTickRun st) s =
      posted { s with lease := { s.lease with running := true, count := 0 } } st ⟨.done, 0, 0, 0, 0⟩)
    ∧ (c.s0 = 5 → c.s2 = 1 → s.lease.running = true → exec (.configureTickRun st) s = posted s st ⟨.done, 1, 0, 0, 0⟩)
    ∧ (c.s0 = 5 → c.s2 = 0 → exec (.configureTickRun st) s =
      posted { s with lease := { s.lease with running := false } } st ⟨.done, if s.lease.running = true then 1 else 0, 0, 0, 0⟩)
    ∧ (c.s0 = 5 → 1 < c.s2.toNat → exec (.configureTickRun st) s = posted s st ⟨.badOperand, 0, 0, 0, 0⟩)
    ∧ (c.s0 = 6 → 8 ≤ c.s2.toNat → exec (.configureDefaults st) s = posted s st ⟨.badOperand, 0, 0, 0, 0⟩)
    ∧ (∀ (k : ClassId) (shared : Bool), c.s0 = 6 → c.s2.toNat = k.val + (if shared = true then 4 else 0) →
        exec (.configureDefaults st) s =
          posted { s with defaults := ⟨k, shared, c.s3⟩ } st
            ⟨.done, BitVec.ofNat 8 (s.defaults.leaseClass.val + if s.defaults.sharedAllowed = true then 4 else 0),
              s.defaults.permit, 0, 0⟩)

/-- O38. The checks of DEFINE in the order of R165's table. -/
def Obligations.DefineChecksInOrder : Prop :=
  ∀ (s : State) (st : StationId) (c : Captured), Due s st c .define → s.NamesLaw →
    ∃ t, exec (.define st) s = .next t ∧ FirstApplies
      [(8 ≤ c.s2.toNat, .badOperand),
       (c.name = 0, .badName),
       (∃ i r, s.Named c.name i r ∧ r.kind = .standing, .badState),
       (¬ s.Absent c.name ∧ 48 ≤ s.standingCount, .standingFull),
       (∃ i r, s.Named c.name i r ∧ c.s2.getLsbD 2 = false ∧ r.SharedUse, .inUse),
       (¬ s.Absent c.name, .done),
       (48 ≤ s.standingCount, .standingFull),
       (s.TableFull, .tableFull),
       (True, .done)]
      (t.ctx st).result.code

/-- O39. An accepted DEFINE (R166, R167): of an absent name, a standing record without holders in the lowest free slot; of a
transient record, its adoption in the order of R167. The standing count rises by 1. -/
def Obligations.DefineCreatesOrAdopts : Prop :=
  ∀ (s : State) (st : StationId) (c : Captured) (k : ClassId) (shared : Bool), Due s st c .define → s.NamesLaw →
    c.s2.toNat = k.val + (if shared = true then 4 else 0) → c.name ≠ 0 → s.standingCount < 48 →
    (∀ i, s.Absent c.name → s.LowestFree i →
      exec (.define st) s =
        posted
          { s.setRecord i (some
              { name := c.name
                kind := .standing
                attrs := ⟨k, shared, c.s3⟩
                holders := Vector.replicate 8 none
                queue := []
                taint := none }) with standingCount := s.standingCount + 1 }
          st ⟨.done, BitVec.ofNat 8 i.val, 0, 0, 0⟩)
    ∧ (∀ i r, s.Named c.name i r → r.kind = .transient → (shared = true ∨ ¬ r.SharedUse) →
      exec (.define st) s =
        posted
          (State.settle
            ((r.queue.filter fun w => decide (w.OutsideMask c.s3)).foldl
              (fun u w => u.queueNotice w.station ⟨.withdrawn, r.name, if w.request = .shared then 4 else 5⟩)
              { s.setRecord i (some
                  { r with
                    kind := .standing
                    attrs := ⟨k, shared, c.s3⟩
                    holders := r.holders.map fun o => o.map (refitted (s.leaseClass k).length)
                    queue := r.queue.filter fun w => decide (¬ w.OutsideMask c.s3) }) with
                standingCount := s.standingCount + 1 })
            i)
          st
          ⟨.done, BitVec.ofNat 8 i.val, 1,
            BitVec.ofNat 8 (r.queue.filter fun w => decide (w.OutsideMask c.s3)).length, 0⟩)

/-- O40. AMEND (R168, R169): its checks in order; then, in order, the new attributes, the refit where the class has changed, the
claim waiters outside the new mask withdrawn with their notices, and the grant rule. -/
def Obligations.AmendChangesAttributes : Prop :=
  ∀ (s : State) (st : StationId) (c : Captured), Due s st c .amend → s.NamesLaw →
    (∃ t, exec (.amend st) s = .next t ∧ FirstApplies
      [(8 ≤ c.s2.toNat, .badOperand),
       (c.name = 0, .badName),
       (s.Absent c.name, .noRecord),
       (∃ i r, s.Named c.name i r ∧ r.kind = .transient, .badState),
       (∃ i r, s.Named c.name i r ∧ c.s2.getLsbD 2 = false ∧ r.SharedUse, .inUse),
       (True, .done)]
      (t.ctx st).result.code)
    ∧ (∀ (k : ClassId) (shared : Bool) i r, c.s2.toNat = k.val + (if shared = true then 4 else 0) →
        s.Named c.name i r → r.kind = .standing → (shared = true ∨ ¬ r.SharedUse) →
        exec (.amend st) s =
          posted
            (State.settle
              ((r.queue.filter fun w => decide (w.OutsideMask c.s3)).foldl
                (fun u w => u.queueNotice w.station ⟨.withdrawn, r.name, if w.request = .shared then 4 else 5⟩)
                (s.setRecord i (some
                  { r with
                    attrs := ⟨k, shared, c.s3⟩
                    holders := if r.attrs.leaseClass = k then r.holders
                      else r.holders.map fun o => o.map (refitted (s.leaseClass k).length)
                    queue := r.queue.filter fun w => decide (¬ w.OutsideMask c.s3) })))
              i)
            st
            ⟨.done, BitVec.ofNat 8 i.val, 0,
              BitVec.ofNat 8 (r.queue.filter fun w => decide (w.OutsideMask c.s3)).length, 0⟩)

/-- O41. RETIRE (R171): its checks in order; a record without holders and waiters is removed, its slot free again and a standing
one out of the standing count; D0 is the slot, D1 and D2 the taint, and D3 the kind. -/
def Obligations.RetireRemovesIdleRecord : Prop :=
  ∀ (s : State) (st : StationId) (c : Captured), Due s st c .retire → s.NamesLaw →
    (∃ t, exec (.retire st) s = .next t ∧ FirstApplies
      [(c.name = 0, .badName),
       (s.Absent c.name, .noRecord),
       (∃ i r, s.Named c.name i r ∧ (¬ r.NoHolder ∨ r.queue ≠ []), .inUse),
       (True, .done)]
      (t.ctx st).result.code)
    ∧ (∀ i r, s.Named c.name i r → r.NoHolder → r.queue = [] →
        exec (.retire st) s =
          posted
            { s.setRecord i none with
              standingCount := if r.kind = .standing then s.standingCount - 1 else s.standingCount }
            st
            ⟨.done, BitVec.ofNat 8 i.val, if r.taint = none then 0 else 1,
              match r.taint with
                | none => 0
                | some a => BitVec.ofNat 8 a.val,
              if r.kind = .standing then 1 else 0⟩)

/-! ### Inspection and listing -/

/-- O42. INSPECT (R5, R147 to R151): its checks in order, and it changes nothing but the result window; the derived mode agrees
with the holders; the bytes of the summary view, of a waiter view, and of the own-holding view. -/
def Obligations.InspectReportsViews : Prop :=
  ∀ (s : State) (st : StationId) (c : Captured), Due s st c .inspect → s.NamesLaw →
    (∃ t, exec (.inspect st) s = .next t ∧ exec (.inspect st) s = posted s st (t.ctx st).result ∧ FirstApplies
      [(9 < c.s3.toNat, .badOperand),
       (c.name = 0, .badName),
       (s.Absent c.name, .noRecord),
       (∃ i r, s.Named c.name i r ∧ 1 ≤ c.s3.toNat ∧ c.s3.toNat ≤ 8 ∧ r.queue.length < c.s3.toNat, .endOfList),
       (∃ i r, s.Named c.name i r ∧ c.s3 = 9 ∧ r.holding st = none, .notHolder),
       (True, .done)]
      (t.ctx st).result.code)
    ∧ (∀ r : Record, (r.derivedMode = .idle ↔ r.NoHolder) ∧ (r.derivedMode = .exclusive ↔ ¬ r.NoExclusiveHolder)
        ∧ (r.derivedMode = .shared ↔ ¬ r.NoHolder ∧ r.NoExclusiveHolder))
    ∧ (∀ i r, s.Named c.name i r → c.s3 = 0 →
        ∃ holders : Byte, (∀ a : StationId, holders.getLsbD a.val = (r.holding a).isSome)
          ∧ exec (.inspect st) s = posted s st
            ⟨.done,
              BitVec.ofNat 8 (r.attrs.leaseClass.val + (if r.attrs.sharedAllowed = true then 4 else 0)
                + (match r.derivedMode with
                  | .idle => 0
                  | .shared => 8
                  | .exclusive => 16)
                + (if r.taint = none then 0 else 32) + (if r.kind = .standing then 64 else 0)),
              holders,
              BitVec.ofNat 8 (r.queue.length % 16 + if ∃ w ∈ r.queue.head?, w.request = .upgrade then 16 else 0),
              r.attrs.permit⟩)
    ∧ (∀ i r w n, s.Named c.name i r → c.s3.toNat = n + 1 → n < 8 → r.queue[n]? = some w →
        exec (.inspect st) s = posted s st
          ⟨.done, BitVec.ofNat 8 w.station.val,
            match w.request with | .shared => 0 | .exclusive => 1 | .upgrade => 2,
            match w.deadline with | .ticks k => BitVec.ofNat 8 k | .unlimited => 255, 0⟩)
    ∧ (∀ i r h, s.Named c.name i r → c.s3 = 9 → r.holding st = some h →
        exec (.inspect st) s = posted s st
          ⟨.done, BitVec.ofNat 8 h.depth, if h.mode = .shared then 0 else 1, BitVec.ofNat 8 (h.lease.getD 0),
            BitVec.ofNat 8 ((if h.mode = .shared then 0 else 1)
              + (match r.taint with | none => 0 | some a => 2 + 4 * a.val))⟩)

/-- O43. LIST FIRST and LIST NEXT (R153, R154): BAD_OPERAND for a scope above 3 and BAD_STATE for a cleared cursor; else the
lowest slot at or beyond the index whose record matches is returned and the index becomes one beyond it, or END_OF_LIST and
the index becomes 64. -/
def Obligations.ListingReturnsNextMatch : Prop :=
  ∀ (s : State) (st : StationId) (c : Captured) (row : Instr) (scope : Scope) (index : Nat),
    (Due s st c .listFirst → 3 < c.s2.toNat → exec (.listFirst st) s = posted s st ⟨.badOperand, 0, 0, 0, 0⟩)
    ∧ (Due s st c .listNext → (s.ctx st).cursor = none → exec (.listNext st) s = posted s st ⟨.badState, 0, 0, 0, 0⟩)
    ∧ ((Due s st c .listFirst ∧ row = .listFirst st ∧ index = 0
          ∧ c.s2 = (match scope with | .own => (0 : Byte) | .all => 1 | .standing => 2 | .tainted => 3))
        ∨ (Due s st c .listNext ∧ row = .listNext st ∧ ∃ cur, (s.ctx st).cursor = some cur ∧ cur.scope = scope
          ∧ cur.index.val = index) →
      (∀ (p : SlotId) r, s.record p = some r → index ≤ p.val → scope.Covers st r →
          (∀ q : SlotId, index ≤ q.val → q < p → ∀ r' ∈ s.record q, ¬ scope.Covers st r') →
          exec row s = posted (s.modifyCtx st fun x => { x with cursor := some ⟨scope, p.succ⟩ })
            st ⟨.done, r.name.extractLsb' 8 8, r.name.extractLsb' 0 8, BitVec.ofNat 8 p.val, 0⟩)
      ∧ ((∀ q : SlotId, index ≤ q.val → ∀ r' ∈ s.record q, ¬ scope.Covers st r') →
          exec row s = posted (s.modifyCtx st fun x => { x with cursor := some ⟨scope, 64⟩ }) st ⟨.endOfList, 0, 0, 0, 0⟩))

/-- O44. STATION INFO (R158): BAD_OPERAND above 7; else the named station's state, holding count and name waited on, 0 where
it has no wait; nothing but the issuer's result window changes. -/
def Obligations.StationInfoReports : Prop :=
  ∀ (s : State) (st : StationId) (c : Captured), Due s st c .stationInfo →
    (7 < c.s3.toNat → exec (.stationInfo st) s = posted s st ⟨.badOperand, 0, 0, 0, 0⟩)
    ∧ (∀ a : StationId, c.s3.toNat = a.val →
        ∃ n : LockName, (¬ s.Waiting a → n = 0)
          ∧ (∀ i r, s.OneWaitLaw → s.record i = some r → (∃ w ∈ r.queue, w.station = a) → n = r.name)
          ∧ exec (.stationInfo st) s = posted s st
            ⟨.done,
              match (s.ctx a).life with | .offline => 0 | .online => 1 | .detaching => 2 | .purging => 3,
              BitVec.ofNat 8 (s.holdingCount a), n.extractLsb' 8 8, n.extractLsb' 0 8⟩)

/-! ### The window -/

/-- O45. The reads with a side effect (R124, R138, R178): RESULT returns the code and clears RESULT READY; STATUS returns its byte,
NOTICE LOST as it stood, and clears it; a take returns the kind of the head notice and moves its name and detail into the notice
window, or returns NONE and leaves all as it is. -/
def Obligations.ReadsWithSideEffects : Prop :=
  ∀ (s : State) (st : StationId), s.resetPin = false →
    exec (.resultRead st) s =
        .next { s.modifyCtx st (fun x => { x with resultReady := false }) with
          dataPins := some (s.ctx st).result.code.byte }
      ∧ (∃ b : Byte, exec (.statusRead st) s =
            .next { s.modifyCtx st (fun x => { x with noticeLost := false }) with dataPins := some b }
          ∧ b = BitVec.ofNat 8
              ((match (s.ctx st).life with | .offline => 0 | .online => 1 | .detaching => 2 | .purging => 3)
                + (if (s.ctx st).slot = .empty then 0 else 4) + (if (s.ctx st).resultReady = true then 8 else 0)
                + (if s.lineLow st = true then 16 else 0) + (if s.hasWait st = true then 32 else 0)
                + (if (s.ctx st).noticeLost = true then 64 else 0)
                + (if (s.ctx st).fault = ⟨none, 0, false⟩ then 0 else 128)))
      ∧ (s.hasWait st = true ↔ s.Waiting st)
      ∧ ((s.ctx st).notices = [] → exec (.noticeTake st) s = .next { s with dataPins := some 0 })
      ∧ (∀ n ns, (s.ctx st).notices = n :: ns → exec (.noticeTake st) s =
          .next { s.modifyCtx st (fun x => { x with windowName := n.name, windowDetail := n.detail, notices := ns }) with
            dataPins := some (match n.kind with
              | .granted => 1 | .timedOut => 2 | .withdrawn => 3 | .revoked => 4 | .warning => 5) })

/-- O46. Writes that are not faults, and the COMMAND write (R113 to R115, R141). A staging write stores the byte. A COMMAND write
is captured with the staging bytes into an EMPTY slot of a station that is not PURGING, with RESULT READY cleared; it is dropped
with COMMAND OVERRUN where the slot has work, and not taken, with COMMAND IN PURGE, where the station is PURGING. A write to MASK
SET enables, and one to MASK CLEAR disables, every member written as 1 and leaves the others; bits 7 and 6 are ignored. -/
def Obligations.WritesStoreCaptureAndMask : Prop :=
  ∀ (s : State) (st : StationId) (v : Byte), s.resetPin = false →
    (∀ k : Fin 4, exec (.windowWrite st ⟨k.val, by omega⟩ v) s =
      .next { s.modifyCtx st (fun x => { x with stage := x.stage.set k v }) with dataPins := none })
    ∧ ((s.ctx st).slot = .empty → (s.ctx st).life ≠ .purging → exec (.windowWrite st 4 v) s =
      .next { s.modifyCtx st (fun x =>
          { x with
            slot := .pending ⟨v, x.stage[0], x.stage[1], x.stage[2], x.stage[3]⟩
            lastCode := v
            resultReady := false }) with
        dataPins := none })
    ∧ ((s.ctx st).slot ≠ .empty → exec (.windowWrite st 4 v) s =
      .next { s.modifyCtx st (fun x => { x with fault := faultAfter x.fault .commandOverrun v }) with dataPins := none })
    ∧ ((s.ctx st).slot = .empty → (s.ctx st).life = .purging → exec (.windowWrite st 4 v) s =
      .next { s.modifyCtx st (fun x => { x with fault := faultAfter x.fault .commandInPurge v }) with dataPins := none })
    ∧ (∃ mask : BitVec 6, (∀ b : Fin 6, mask.getLsbD b.val = ((s.ctx st).mask.getLsbD b.val || v.getLsbD b.val))
        ∧ exec (.maskSet st v) s = .next { s.modifyCtx st (fun x => { x with mask := mask }) with dataPins := none })
    ∧ (∃ mask : BitVec 6, (∀ b : Fin 6, mask.getLsbD b.val = ((s.ctx st).mask.getLsbD b.val && !v.getLsbD b.val))
        ∧ exec (.maskClear st v) s = .next { s.modifyCtx st (fun x => { x with mask := mask }) with dataPins := none })

/-- O47. Faults of the window (R126 to R128, R177): a read or write of an offset from 22 to 31 records UNASSIGNED OFFSET, and the
read returns 0xFF; a write to an offset that can only be read records WRITE TO READ-ONLY; a write to FAULT CAUSE clears the
record. Nothing else changes. -/
def Obligations.WindowFaultsRecordedAndCleared : Prop :=
  ∀ (s : State) (st : StationId) (off : Offset) (v : Byte), s.resetPin = false →
    (22 ≤ off.val →
      exec (.unassignedOffset st off none) s =
        .next { s.modifyCtx st (fun x => { x with fault := faultAfter x.fault .unassignedOffset (BitVec.ofNat 8 off.val) }) with
          dataPins := some 0xFF }
      ∧ exec (.unassignedOffset st off (some v)) s =
        .next { s.modifyCtx st (fun x => { x with fault := faultAfter x.fault .unassignedOffset (BitVec.ofNat 8 off.val) }) with
          dataPins := none })
    ∧ (off.val ∈ [5, 6, 7, 8, 9, 10, 11, 12, 13, 14, 17, 19, 20, 21] →
      exec (.windowWrite st off v) s =
        .next { s.modifyCtx st (fun x => { x with fault := faultAfter x.fault .writeToReadOnly (BitVec.ofNat 8 off.val) }) with
          dataPins := none })
    ∧ exec (.faultCauseWrite st v) s =
        .next { s.modifyCtx st (fun x => { x with fault := ⟨none, 0, false⟩ }) with dataPins := none }

/-- O48. What every offset reads as (the second column of the table of R176), and PENDING KINDS (R142); that a read without a row
of its own returns this value and changes nothing is log entry 12. -/
def Obligations.WindowReadTable : Prop :=
  ∀ (s : State) (st : StationId),
    (∀ k : Fin 4, windowRead s st ⟨k.val, by omega⟩ = (s.ctx st).stage[k])
    ∧ windowRead s st 4 = (s.ctx st).lastCode
    ∧ windowRead s st 5 = (s.ctx st).result.code.byte
    ∧ windowRead s st 6 = (s.ctx st).result.d0 ∧ windowRead s st 7 = (s.ctx st).result.d1
    ∧ windowRead s st 8 = (s.ctx st).result.d2 ∧ windowRead s st 9 = (s.ctx st).result.d3
    ∧ windowRead s st 10 = BitVec.ofNat 8
        ((match (s.ctx st).life with | .offline => 0 | .online => 1 | .detaching => 2 | .purging => 3)
          + (if (s.ctx st).slot = .empty then 0 else 4) + (if (s.ctx st).resultReady = true then 8 else 0)
          + (if s.lineLow st = true then 16 else 0) + (if s.hasWait st = true then 32 else 0)
          + (if (s.ctx st).noticeLost = true then 64 else 0)
          + (if (s.ctx st).fault = ⟨none, 0, false⟩ then 0 else 128))
    ∧ windowRead s st 11 = (match (s.ctx st).notices with
        | [] => 0
        | n :: _ => match n.kind with
          | .granted => 1 | .timedOut => 2 | .withdrawn => 3 | .revoked => 4 | .warning => 5)
    ∧ windowRead s st 12 = (s.ctx st).windowName.extractLsb' 8 8
    ∧ windowRead s st 13 = (s.ctx st).windowName.extractLsb' 0 8
    ∧ windowRead s st 14 = (s.ctx st).windowDetail
    ∧ windowRead s st 15 = (s.ctx st).mask.setWidth 8 ∧ windowRead s st 16 = (s.ctx st).mask.setWidth 8
    ∧ ((windowRead s st 17).getLsbD 0 = (s.ctx st).resultReady
        ∧ (∀ k : NoticeKind, (windowRead s st 17).getLsbD
              (match k with | .granted => 1 | .timedOut => 2 | .withdrawn => 3 | .revoked => 4 | .warning => 5)
            = (s.ctx st).notices.any fun n => decide (n.kind = k))
        ∧ (windowRead s st 17).getLsbD 6 = false ∧ (windowRead s st 17).getLsbD 7 = false)
    ∧ windowRead s st 18 = BitVec.ofNat 8
        ((match (s.ctx st).fault.cause with
            | none => 0
            | some .unassignedOffset => 1
            | some .writeToReadOnly => 2
            | some .commandOverrun => 3
            | some .commandInPurge => 4) + if (s.ctx st).fault.further = true then 128 else 0)
    ∧ windowRead s st 19 = (s.ctx st).fault.detail
    ∧ windowRead s st 20 = BitVec.ofNat 8 (s.ctx st).notices.length
    ∧ windowRead s st 21 = BitVec.ofNat 8 (s.holdingCount st)
    ∧ ∀ off : Offset, 22 ≤ off.val → windowRead s st off = 0xFF

/-- O49. The notice line (R143): low exactly while a notice of an enabled kind is queued, or RESULT READY is set with its member
enabled; and exactly while some position is 1 in both the mask and PENDING KINDS (R142). The LINE bit of STATUS shows the same,
and after reset every line is released. -/
def Obligations.NoticeLineIsLowWhenEnabled : Prop :=
  ∀ (s : State) (st : StationId),
    (s.lineLow st = true ↔
      (∃ n ∈ (s.ctx st).notices, (s.ctx st).mask.getLsbD
          (match n.kind with | .granted => 1 | .timedOut => 2 | .withdrawn => 3 | .revoked => 4 | .warning => 5) = true)
        ∨ ((s.ctx st).resultReady = true ∧ (s.ctx st).mask.getLsbD 0 = true))
    ∧ (s.lineLow st = true ↔ windowRead s st 15 &&& windowRead s st 17 ≠ 0)
    ∧ (windowRead s st 10).getLsbD 4 = s.lineLow st
    ∧ State.reset.lineLow st = false

/-- O50. An access of one station reaches only that station's context (R91, R127): every other context, the table, the counts, the
configuration and the engine stay as they are. -/
def Obligations.AccessReachesOneContext : Prop :=
  ∀ (s t : State) (st : StationId) (i : Instr) (off : Offset) (v : Byte) (written : Option Byte),
    i ∈ [Instr.resultRead st, .statusRead st, .noticeTake st, .maskSet st v, .maskClear st v, .faultCauseWrite st v,
      .unassignedOffset st off written, .windowWrite st off v] →
    exec i s = .next t →
    t = { s with stations := s.stations.set st (t.ctx st), dataPins := t.dataPins }

/-- O51. No turn and no tick raises a fault or changes a staging byte, a last code or a notice window, and only a PURGE's first
turn clears a fault record and a mask, those of the station it makes PURGING (R105, R113, R116, R126 to R128, R139); an engine
turn leaves the data pins (log entry 7). With it, which reads a turn or tick holds (R140, R174; log entries 8 and 16): one of
an offset whose value it changes, and a take of a queue it changes. So a read of an offset that no turn or tick changes is
never held; one of RESULT or RDATA only by a completion of the station's own or by a PURGE of it; one of a mask or of the fault
record only by a PURGE of it. -/
def Obligations.TurnsAndTicksRaiseNoFault : Prop :=
  ∀ (s t : State) (i : Instr) (a : StationId),
    (turnStation i ≠ none ∨ i = .leaseTick ∨ (∃ b p, i = .leaseExpiry b p) ∨ ∃ b, i = .waitTimeOut b) →
    exec i s = .next t →
    (t.ctx a).stage = (s.ctx a).stage ∧ (t.ctx a).lastCode = (s.ctx a).lastCode
      ∧ (t.ctx a).windowName = (s.ctx a).windowName ∧ (t.ctx a).windowDetail = (s.ctx a).windowDetail
      ∧ (((t.ctx a).fault = (s.ctx a).fault ∧ (t.ctx a).mask = (s.ctx a).mask)
          ∨ (i = .purge 0 ∧ (s.ctx a).life = .online ∧ (t.ctx a).life = .purging
              ∧ (t.ctx a).fault = ⟨none, 0, false⟩ ∧ (t.ctx a).mask = 0))
      ∧ t.dataPins = s.dataPins ∧ t.resetPin = s.resetPin
      ∧ (readHeld s t a 11 = true ↔ (t.ctx a).notices ≠ (s.ctx a).notices)
      ∧ ∀ off : Offset,
          (off ≠ 11 → (readHeld s t a off = true ↔ windowRead t a off ≠ windowRead s a off))
          ∧ (off.val ∈ [0, 1, 2, 3, 4, 12, 13, 14] ∨ 22 ≤ off.val → readHeld s t a off = false)
          ∧ (off.val ∈ [5, 6, 7, 8, 9] → readHeld s t a off = true →
              (t.ctx a).slot = .empty ∧ (turnStation i = some a ∨ (i = .purge 0 ∧ (t.ctx a).life = .purging)))
          ∧ (off.val ∈ [15, 16, 18, 19] → readHeld s t a off = true →
              i = .purge 0 ∧ (s.ctx a).life = .online ∧ (t.ctx a).life = .purging)

/-- O52. The configuration changes by its own commands and by reset alone (09 section 9.1): every other command leaves the class
table, P, the tick-run flag and the transient defaults, and every standing record present before and after keeps its attributes
but by AMEND. -/
def Obligations.ConfigurationChangedByItsCommandsOnly : Prop :=
  ∀ (s t : State) (i : Instr), (∀ b, i ≠ .reset b) → exec i s = .next t →
    ((∀ st, i ≠ .configureClass st) → t.lease.classes = s.lease.classes)
      ∧ ((∀ st, i ≠ .configurePrescaler st) → t.lease.p = s.lease.p)
      ∧ ((∀ st, i ≠ .configureTickRun st) → t.lease.running = s.lease.running)
      ∧ ((∀ st, i ≠ .configureDefaults st) → t.defaults = s.defaults)
      ∧ ((∀ st, i ≠ .amend st) → ∀ p r r', s.record p = some r → r.kind = .standing → t.record p = some r' →
          r'.attrs = r.attrs ∧ r'.kind = .standing ∧ r'.name = r.name)

/-! ### Laws that every step keeps -/

/-- O53. Every law of this part holds at reset. -/
def Obligations.LawsAfterReset : Prop :=
  State.reset.EveryRecord Record.HeadHeldBack ∧ State.reset.TableLaw ∧ State.reset.CountsLaw ∧ State.reset.NoticesLaw
    ∧ State.reset.NoCycleLaw ∧ State.reset.HoldingsLaw ∧ State.reset.UnitLaw ∧ State.reset.QueuesLaw

/-- O54. No record has a head waiter that the grant rule would grant: every step keeps it. A record without holders then has no
waiters, an upgrade waiter being itself a holder (R39). -/
def Obligations.NoGrantableHeadKept : Prop :=
  (∀ s t : State, s.EveryRecord Record.HeadHeldBack → step s = .next t → t.EveryRecord Record.HeadHeldBack)
    ∧ ∀ r : Record, r.HeadHeldBack → r.upgradeWaiterAtHeadOnly = true → r.NoHolder → r.queue = []

/-- O55. A slot holds a record exactly when the record is standing, has a holding or a waiter, or is tainted; no two records
share a name; the standing count is the number of standing records, at most 48: every step keeps it (R21). -/
def Obligations.TableLawKept : Prop :=
  ∀ s t : State, s.TableLaw → step s = .next t → t.TableLaw

/-- O56. A station's holding count equals the number of records holding it, and its commitment never exceeds 16: every step
keeps it (01 section 1.3, 02 section 2.3). -/
def Obligations.HoldingCountsKept : Prop :=
  ∀ s t : State, s.CountsLaw → step s = .next t → t.CountsLaw

/-- O57. A notice queue holds at most 8 notices, and at most 7 while its station has a wait outstanding: every step keeps it
(R135). -/
def Obligations.NoticeQueuesKeptWithin : Prop :=
  ∀ s t : State, s.NoticesLaw → step s = .next t → t.NoticesLaw

/-- O58. The stands-before relation among stations never contains a cycle: every step keeps it (R61). -/
def Obligations.NoDeadlockCycleKept : Prop :=
  ∀ s t : State, s.NoCycleLaw → step s = .next t → t.NoCycleLaw

/-- O59. Depths stay between 1 and 15, an exclusive holding alone, deadlines between 1 and 254, and leases within the length of
their class; the classes stay lawful, the prescaler count within its period, and a fault record without a cause clear: every
step keeps each (01 section 1.2, 03 section 3.1, 04 sections 4.1 to 4.3, 06 section 6.7). -/
def Obligations.HoldingsAndUnitLawKept : Prop :=
  (∀ s t : State, s.HoldingsLaw → step s = .next t → t.HoldingsLaw)
    ∧ ∀ s t : State, s.UnitLaw → step s = .next t → t.UnitLaw

/-- O60. The station states agree with the slots, the walks and the table (an OFFLINE station holds nothing and waits for
nothing), and every queue is as 01 R6 says: every step keeps it (05 sections 5.3 to 5.8). -/
def Obligations.StationsAndQueuesLawKept : Prop :=
  (∀ s t : State, s.StationsLaw → step s = .next t → t.StationsLaw)
    ∧ ∀ s t : State, s.QueuesLaw → step s = .next t → t.QueuesLaw
end

