-- ==== Sys2Proof/Laws/State.lean ====
section
/-!
SUPPORT. One lemma for each field and each named update of the state, and the readers of the table and of the contexts
after each of the basic updates, so that no proof needs to unfold a record update.
-/

namespace Sys2Proof.Machine

variable (s : State)

/-! ### modifyCtx -/

@[simp] theorem State.modifyCtx_slots (st : StationId) (f : Station → Station) :
    (s.modifyCtx st f).slots = s.slots := rfl
@[simp] theorem State.modifyCtx_holdingCounts (st : StationId) (f : Station → Station) :
    (s.modifyCtx st f).holdingCounts = s.holdingCounts := rfl
@[simp] theorem State.modifyCtx_standingCount (st : StationId) (f : Station → Station) :
    (s.modifyCtx st f).standingCount = s.standingCount := rfl
@[simp] theorem State.modifyCtx_defaults (st : StationId) (f : Station → Station) :
    (s.modifyCtx st f).defaults = s.defaults := rfl
@[simp] theorem State.modifyCtx_lease (st : StationId) (f : Station → Station) :
    (s.modifyCtx st f).lease = s.lease := rfl
@[simp] theorem State.modifyCtx_stations (st : StationId) (f : Station → Station) :
    (s.modifyCtx st f).stations = s.stations.set st (f (s.ctx st)) := rfl
@[simp] theorem State.modifyCtx_turnPointer (st : StationId) (f : Station → Station) :
    (s.modifyCtx st f).turnPointer = s.turnPointer := rfl
@[simp] theorem State.modifyCtx_resetPin (st : StationId) (f : Station → Station) :
    (s.modifyCtx st f).resetPin = s.resetPin := rfl
@[simp] theorem State.modifyCtx_dataPins (st : StationId) (f : Station → Station) :
    (s.modifyCtx st f).dataPins = s.dataPins := rfl
@[simp] theorem State.modifyCtx_pending (st : StationId) (f : Station → Station) :
    (s.modifyCtx st f).pending = s.pending := rfl

/-! ### setCount -/

@[simp] theorem State.setCount_slots (st : StationId) (n : Nat) : (s.setCount st n).slots = s.slots := rfl
@[simp] theorem State.setCount_holdingCounts (st : StationId) (n : Nat) :
    (s.setCount st n).holdingCounts = s.holdingCounts.set st n := rfl
@[simp] theorem State.setCount_standingCount (st : StationId) (n : Nat) :
    (s.setCount st n).standingCount = s.standingCount := rfl
@[simp] theorem State.setCount_defaults (st : StationId) (n : Nat) : (s.setCount st n).defaults = s.defaults := rfl
@[simp] theorem State.setCount_lease (st : StationId) (n : Nat) : (s.setCount st n).lease = s.lease := rfl
@[simp] theorem State.setCount_stations (st : StationId) (n : Nat) : (s.setCount st n).stations = s.stations := rfl
@[simp] theorem State.setCount_turnPointer (st : StationId) (n : Nat) :
    (s.setCount st n).turnPointer = s.turnPointer := rfl
@[simp] theorem State.setCount_resetPin (st : StationId) (n : Nat) : (s.setCount st n).resetPin = s.resetPin := rfl
@[simp] theorem State.setCount_dataPins (st : StationId) (n : Nat) : (s.setCount st n).dataPins = s.dataPins := rfl
@[simp] theorem State.setCount_pending (st : StationId) (n : Nat) : (s.setCount st n).pending = s.pending := rfl

/-! ### raiseCount -/

@[simp] theorem State.raiseCount_slots (st : StationId) : (s.raiseCount st).slots = s.slots := rfl
@[simp] theorem State.raiseCount_holdingCounts (st : StationId) :
    (s.raiseCount st).holdingCounts = s.holdingCounts.set st (s.holdingCount st + 1) := rfl
@[simp] theorem State.raiseCount_standingCount (st : StationId) :
    (s.raiseCount st).standingCount = s.standingCount := rfl
@[simp] theorem State.raiseCount_defaults (st : StationId) : (s.raiseCount st).defaults = s.defaults := rfl
@[simp] theorem State.raiseCount_lease (st : StationId) : (s.raiseCount st).lease = s.lease := rfl
@[simp] theorem State.raiseCount_stations (st : StationId) : (s.raiseCount st).stations = s.stations := rfl
@[simp] theorem State.raiseCount_turnPointer (st : StationId) : (s.raiseCount st).turnPointer = s.turnPointer := rfl
@[simp] theorem State.raiseCount_resetPin (st : StationId) : (s.raiseCount st).resetPin = s.resetPin := rfl
@[simp] theorem State.raiseCount_dataPins (st : StationId) : (s.raiseCount st).dataPins = s.dataPins := rfl
@[simp] theorem State.raiseCount_pending (st : StationId) : (s.raiseCount st).pending = s.pending := rfl

/-! ### lowerCount -/

@[simp] theorem State.lowerCount_slots (st : StationId) : (s.lowerCount st).slots = s.slots := rfl
@[simp] theorem State.lowerCount_holdingCounts (st : StationId) :
    (s.lowerCount st).holdingCounts = s.holdingCounts.set st (s.holdingCount st - 1) := rfl
@[simp] theorem State.lowerCount_standingCount (st : StationId) :
    (s.lowerCount st).standingCount = s.standingCount := rfl
@[simp] theorem State.lowerCount_defaults (st : StationId) : (s.lowerCount st).defaults = s.defaults := rfl
@[simp] theorem State.lowerCount_lease (st : StationId) : (s.lowerCount st).lease = s.lease := rfl
@[simp] theorem State.lowerCount_stations (st : StationId) : (s.lowerCount st).stations = s.stations := rfl
@[simp] theorem State.lowerCount_turnPointer (st : StationId) : (s.lowerCount st).turnPointer = s.turnPointer := rfl
@[simp] theorem State.lowerCount_resetPin (st : StationId) : (s.lowerCount st).resetPin = s.resetPin := rfl
@[simp] theorem State.lowerCount_dataPins (st : StationId) : (s.lowerCount st).dataPins = s.dataPins := rfl
@[simp] theorem State.lowerCount_pending (st : StationId) : (s.lowerCount st).pending = s.pending := rfl

/-! ### setRecord -/

@[simp] theorem State.setRecord_slots (i : SlotId) (r : Option Record) :
    (s.setRecord i r).slots = s.slots.set i r := rfl
@[simp] theorem State.setRecord_holdingCounts (i : SlotId) (r : Option Record) :
    (s.setRecord i r).holdingCounts = s.holdingCounts := rfl
@[simp] theorem State.setRecord_standingCount (i : SlotId) (r : Option Record) :
    (s.setRecord i r).standingCount = s.standingCount := rfl
@[simp] theorem State.setRecord_defaults (i : SlotId) (r : Option Record) :
    (s.setRecord i r).defaults = s.defaults := rfl
@[simp] theorem State.setRecord_lease (i : SlotId) (r : Option Record) : (s.setRecord i r).lease = s.lease := rfl
@[simp] theorem State.setRecord_stations (i : SlotId) (r : Option Record) :
    (s.setRecord i r).stations = s.stations := rfl
@[simp] theorem State.setRecord_turnPointer (i : SlotId) (r : Option Record) :
    (s.setRecord i r).turnPointer = s.turnPointer := rfl
@[simp] theorem State.setRecord_resetPin (i : SlotId) (r : Option Record) :
    (s.setRecord i r).resetPin = s.resetPin := rfl
@[simp] theorem State.setRecord_dataPins (i : SlotId) (r : Option Record) :
    (s.setRecord i r).dataPins = s.dataPins := rfl
@[simp] theorem State.setRecord_pending (i : SlotId) (r : Option Record) :
    (s.setRecord i r).pending = s.pending := rfl

/-! ### setStandingCount -/

@[simp] theorem State.setStandingCount_slots (n : Nat) : (s.setStandingCount n).slots = s.slots := rfl
@[simp] theorem State.setStandingCount_holdingCounts (n : Nat) :
    (s.setStandingCount n).holdingCounts = s.holdingCounts := rfl
@[simp] theorem State.setStandingCount_standingCount (n : Nat) : (s.setStandingCount n).standingCount = n := rfl
@[simp] theorem State.setStandingCount_defaults (n : Nat) : (s.setStandingCount n).defaults = s.defaults := rfl
@[simp] theorem State.setStandingCount_lease (n : Nat) : (s.setStandingCount n).lease = s.lease := rfl
@[simp] theorem State.setStandingCount_stations (n : Nat) : (s.setStandingCount n).stations = s.stations := rfl
@[simp] theorem State.setStandingCount_turnPointer (n : Nat) :
    (s.setStandingCount n).turnPointer = s.turnPointer := rfl
@[simp] theorem State.setStandingCount_resetPin (n : Nat) : (s.setStandingCount n).resetPin = s.resetPin := rfl
@[simp] theorem State.setStandingCount_dataPins (n : Nat) : (s.setStandingCount n).dataPins = s.dataPins := rfl
@[simp] theorem State.setStandingCount_pending (n : Nat) : (s.setStandingCount n).pending = s.pending := rfl

/-! ### setPrescaler -/

@[simp] theorem State.setPrescaler_slots (n : Nat) : (s.setPrescaler n).slots = s.slots := rfl
@[simp] theorem State.setPrescaler_holdingCounts (n : Nat) : (s.setPrescaler n).holdingCounts = s.holdingCounts := rfl
@[simp] theorem State.setPrescaler_standingCount (n : Nat) : (s.setPrescaler n).standingCount = s.standingCount := rfl
@[simp] theorem State.setPrescaler_defaults (n : Nat) : (s.setPrescaler n).defaults = s.defaults := rfl
@[simp] theorem State.setPrescaler_lease (n : Nat) : (s.setPrescaler n).lease = { s.lease with count := n } := rfl
@[simp] theorem State.setPrescaler_stations (n : Nat) : (s.setPrescaler n).stations = s.stations := rfl
@[simp] theorem State.setPrescaler_turnPointer (n : Nat) : (s.setPrescaler n).turnPointer = s.turnPointer := rfl
@[simp] theorem State.setPrescaler_resetPin (n : Nat) : (s.setPrescaler n).resetPin = s.resetPin := rfl
@[simp] theorem State.setPrescaler_dataPins (n : Nat) : (s.setPrescaler n).dataPins = s.dataPins := rfl
@[simp] theorem State.setPrescaler_pending (n : Nat) : (s.setPrescaler n).pending = s.pending := rfl

/-! ### setClass -/

@[simp] theorem State.setClass_slots (k : ClassId) (e : LeaseClass) : (s.setClass k e).slots = s.slots := rfl
@[simp] theorem State.setClass_holdingCounts (k : ClassId) (e : LeaseClass) :
    (s.setClass k e).holdingCounts = s.holdingCounts := rfl
@[simp] theorem State.setClass_standingCount (k : ClassId) (e : LeaseClass) :
    (s.setClass k e).standingCount = s.standingCount := rfl
@[simp] theorem State.setClass_defaults (k : ClassId) (e : LeaseClass) : (s.setClass k e).defaults = s.defaults := rfl
@[simp] theorem State.setClass_lease (k : ClassId) (e : LeaseClass) :
    (s.setClass k e).lease = { s.lease with classes := s.lease.classes.set k e } := rfl
@[simp] theorem State.setClass_stations (k : ClassId) (e : LeaseClass) : (s.setClass k e).stations = s.stations := rfl
@[simp] theorem State.setClass_turnPointer (k : ClassId) (e : LeaseClass) :
    (s.setClass k e).turnPointer = s.turnPointer := rfl
@[simp] theorem State.setClass_resetPin (k : ClassId) (e : LeaseClass) : (s.setClass k e).resetPin = s.resetPin := rfl
@[simp] theorem State.setClass_dataPins (k : ClassId) (e : LeaseClass) : (s.setClass k e).dataPins = s.dataPins := rfl
@[simp] theorem State.setClass_pending (k : ClassId) (e : LeaseClass) : (s.setClass k e).pending = s.pending := rfl

/-! ### drive -/

@[simp] theorem State.drive_slots (v : Byte) : (s.drive v).slots = s.slots := rfl
@[simp] theorem State.drive_holdingCounts (v : Byte) : (s.drive v).holdingCounts = s.holdingCounts := rfl
@[simp] theorem State.drive_standingCount (v : Byte) : (s.drive v).standingCount = s.standingCount := rfl
@[simp] theorem State.drive_defaults (v : Byte) : (s.drive v).defaults = s.defaults := rfl
@[simp] theorem State.drive_lease (v : Byte) : (s.drive v).lease = s.lease := rfl
@[simp] theorem State.drive_stations (v : Byte) : (s.drive v).stations = s.stations := rfl
@[simp] theorem State.drive_turnPointer (v : Byte) : (s.drive v).turnPointer = s.turnPointer := rfl
@[simp] theorem State.drive_resetPin (v : Byte) : (s.drive v).resetPin = s.resetPin := rfl
@[simp] theorem State.drive_dataPins (v : Byte) : (s.drive v).dataPins = some v := rfl
@[simp] theorem State.drive_pending (v : Byte) : (s.drive v).pending = s.pending := rfl

/-! ### release -/

@[simp] theorem State.release_slots : s.release.slots = s.slots := rfl
@[simp] theorem State.release_holdingCounts : s.release.holdingCounts = s.holdingCounts := rfl
@[simp] theorem State.release_standingCount : s.release.standingCount = s.standingCount := rfl
@[simp] theorem State.release_defaults : s.release.defaults = s.defaults := rfl
@[simp] theorem State.release_lease : s.release.lease = s.lease := rfl
@[simp] theorem State.release_stations : s.release.stations = s.stations := rfl
@[simp] theorem State.release_turnPointer : s.release.turnPointer = s.turnPointer := rfl
@[simp] theorem State.release_resetPin : s.release.resetPin = s.resetPin := rfl
@[simp] theorem State.release_dataPins : s.release.dataPins = none := rfl
@[simp] theorem State.release_pending : s.release.pending = s.pending := rfl

/-! ### endTurn -/

@[simp] theorem State.endTurn_slots (st : StationId) : (s.endTurn st).slots = s.slots := rfl
@[simp] theorem State.endTurn_holdingCounts (st : StationId) : (s.endTurn st).holdingCounts = s.holdingCounts := rfl
@[simp] theorem State.endTurn_standingCount (st : StationId) : (s.endTurn st).standingCount = s.standingCount := rfl
@[simp] theorem State.endTurn_defaults (st : StationId) : (s.endTurn st).defaults = s.defaults := rfl
@[simp] theorem State.endTurn_lease (st : StationId) : (s.endTurn st).lease = s.lease := rfl
@[simp] theorem State.endTurn_stations (st : StationId) : (s.endTurn st).stations = s.stations := rfl
@[simp] theorem State.endTurn_turnPointer (st : StationId) : (s.endTurn st).turnPointer = st + 1 := rfl
@[simp] theorem State.endTurn_resetPin (st : StationId) : (s.endTurn st).resetPin = s.resetPin := rfl
@[simp] theorem State.endTurn_dataPins (st : StationId) : (s.endTurn st).dataPins = s.dataPins := rfl
@[simp] theorem State.endTurn_pending (st : StationId) : (s.endTurn st).pending = s.pending := rfl

/-! ### complete -/

@[simp] theorem State.complete_slots (st : StationId) (r : Result) : (s.complete st r).slots = s.slots := rfl
@[simp] theorem State.complete_holdingCounts (st : StationId) (r : Result) :
    (s.complete st r).holdingCounts = s.holdingCounts := rfl
@[simp] theorem State.complete_standingCount (st : StationId) (r : Result) :
    (s.complete st r).standingCount = s.standingCount := rfl
@[simp] theorem State.complete_defaults (st : StationId) (r : Result) : (s.complete st r).defaults = s.defaults := rfl
@[simp] theorem State.complete_lease (st : StationId) (r : Result) : (s.complete st r).lease = s.lease := rfl
@[simp] theorem State.complete_stations (st : StationId) (r : Result) :
    (s.complete st r).stations = s.stations.set st { s.ctx st with result := r, resultReady := true, slot := .empty } := rfl
@[simp] theorem State.complete_turnPointer (st : StationId) (r : Result) :
    (s.complete st r).turnPointer = s.turnPointer := rfl
@[simp] theorem State.complete_resetPin (st : StationId) (r : Result) : (s.complete st r).resetPin = s.resetPin := rfl
@[simp] theorem State.complete_dataPins (st : StationId) (r : Result) : (s.complete st r).dataPins = s.dataPins := rfl
@[simp] theorem State.complete_pending (st : StationId) (r : Result) : (s.complete st r).pending = s.pending := rfl

/-! ### setLife -/

@[simp] theorem State.setLife_slots (st : StationId) (l : Life) : (s.setLife st l).slots = s.slots := rfl
@[simp] theorem State.setLife_holdingCounts (st : StationId) (l : Life) :
    (s.setLife st l).holdingCounts = s.holdingCounts := rfl
@[simp] theorem State.setLife_standingCount (st : StationId) (l : Life) :
    (s.setLife st l).standingCount = s.standingCount := rfl
@[simp] theorem State.setLife_defaults (st : StationId) (l : Life) : (s.setLife st l).defaults = s.defaults := rfl
@[simp] theorem State.setLife_lease (st : StationId) (l : Life) : (s.setLife st l).lease = s.lease := rfl
@[simp] theorem State.setLife_stations (st : StationId) (l : Life) :
    (s.setLife st l).stations = s.stations.set st { s.ctx st with life := l } := rfl
@[simp] theorem State.setLife_turnPointer (st : StationId) (l : Life) :
    (s.setLife st l).turnPointer = s.turnPointer := rfl
@[simp] theorem State.setLife_resetPin (st : StationId) (l : Life) : (s.setLife st l).resetPin = s.resetPin := rfl
@[simp] theorem State.setLife_dataPins (st : StationId) (l : Life) : (s.setLife st l).dataPins = s.dataPins := rfl
@[simp] theorem State.setLife_pending (st : StationId) (l : Life) : (s.setLife st l).pending = s.pending := rfl

/-! ### carryWalk -/

@[simp] theorem State.carryWalk_slots (st : StationId) (c : Captured) (w : Walk) :
    (s.carryWalk st c w).slots = s.slots := rfl
@[simp] theorem State.carryWalk_holdingCounts (st : StationId) (c : Captured) (w : Walk) :
    (s.carryWalk st c w).holdingCounts = s.holdingCounts := rfl
@[simp] theorem State.carryWalk_standingCount (st : StationId) (c : Captured) (w : Walk) :
    (s.carryWalk st c w).standingCount = s.standingCount := rfl
@[simp] theorem State.carryWalk_defaults (st : StationId) (c : Captured) (w : Walk) :
    (s.carryWalk st c w).defaults = s.defaults := rfl
@[simp] theorem State.carryWalk_lease (st : StationId) (c : Captured) (w : Walk) :
    (s.carryWalk st c w).lease = s.lease := rfl
@[simp] theorem State.carryWalk_stations (st : StationId) (c : Captured) (w : Walk) :
    (s.carryWalk st c w).stations = s.stations.set st { s.ctx st with slot := .executing c w } := rfl
@[simp] theorem State.carryWalk_turnPointer (st : StationId) (c : Captured) (w : Walk) :
    (s.carryWalk st c w).turnPointer = s.turnPointer := rfl
@[simp] theorem State.carryWalk_resetPin (st : StationId) (c : Captured) (w : Walk) :
    (s.carryWalk st c w).resetPin = s.resetPin := rfl
@[simp] theorem State.carryWalk_dataPins (st : StationId) (c : Captured) (w : Walk) :
    (s.carryWalk st c w).dataPins = s.dataPins := rfl
@[simp] theorem State.carryWalk_pending (st : StationId) (c : Captured) (w : Walk) :
    (s.carryWalk st c w).pending = s.pending := rfl

/-! ### setCursor -/

@[simp] theorem State.setCursor_slots (st : StationId) (cur : Cursor) : (s.setCursor st cur).slots = s.slots := rfl
@[simp] theorem State.setCursor_holdingCounts (st : StationId) (cur : Cursor) :
    (s.setCursor st cur).holdingCounts = s.holdingCounts := rfl
@[simp] theorem State.setCursor_standingCount (st : StationId) (cur : Cursor) :
    (s.setCursor st cur).standingCount = s.standingCount := rfl
@[simp] theorem State.setCursor_defaults (st : StationId) (cur : Cursor) :
    (s.setCursor st cur).defaults = s.defaults := rfl
@[simp] theorem State.setCursor_lease (st : StationId) (cur : Cursor) : (s.setCursor st cur).lease = s.lease := rfl
@[simp] theorem State.setCursor_stations (st : StationId) (cur : Cursor) :
    (s.setCursor st cur).stations = s.stations.set st { s.ctx st with cursor := some cur } := rfl
@[simp] theorem State.setCursor_turnPointer (st : StationId) (cur : Cursor) :
    (s.setCursor st cur).turnPointer = s.turnPointer := rfl
@[simp] theorem State.setCursor_resetPin (st : StationId) (cur : Cursor) :
    (s.setCursor st cur).resetPin = s.resetPin := rfl
@[simp] theorem State.setCursor_dataPins (st : StationId) (cur : Cursor) :
    (s.setCursor st cur).dataPins = s.dataPins := rfl
@[simp] theorem State.setCursor_pending (st : StationId) (cur : Cursor) :
    (s.setCursor st cur).pending = s.pending := rfl

/-! ### pushNotice -/

@[simp] theorem State.pushNotice_slots (st : StationId) (n : Notice) : (s.pushNotice st n).slots = s.slots := rfl
@[simp] theorem State.pushNotice_holdingCounts (st : StationId) (n : Notice) :
    (s.pushNotice st n).holdingCounts = s.holdingCounts := rfl
@[simp] theorem State.pushNotice_standingCount (st : StationId) (n : Notice) :
    (s.pushNotice st n).standingCount = s.standingCount := rfl
@[simp] theorem State.pushNotice_defaults (st : StationId) (n : Notice) :
    (s.pushNotice st n).defaults = s.defaults := rfl
@[simp] theorem State.pushNotice_lease (st : StationId) (n : Notice) : (s.pushNotice st n).lease = s.lease := rfl
@[simp] theorem State.pushNotice_stations (st : StationId) (n : Notice) :
    (s.pushNotice st n).stations = s.stations.set st { s.ctx st with notices := (s.ctx st).notices ++ [n] } := rfl
@[simp] theorem State.pushNotice_turnPointer (st : StationId) (n : Notice) :
    (s.pushNotice st n).turnPointer = s.turnPointer := rfl
@[simp] theorem State.pushNotice_resetPin (st : StationId) (n : Notice) :
    (s.pushNotice st n).resetPin = s.resetPin := rfl
@[simp] theorem State.pushNotice_dataPins (st : StationId) (n : Notice) :
    (s.pushNotice st n).dataPins = s.dataPins := rfl
@[simp] theorem State.pushNotice_pending (st : StationId) (n : Notice) :
    (s.pushNotice st n).pending = s.pending := rfl

/-! ### recordFault -/

@[simp] theorem State.recordFault_slots (st : StationId) (cause : FaultCause) (detail : Byte) :
    (s.recordFault st cause detail).slots = s.slots := rfl
@[simp] theorem State.recordFault_holdingCounts (st : StationId) (cause : FaultCause) (detail : Byte) :
    (s.recordFault st cause detail).holdingCounts = s.holdingCounts := rfl
@[simp] theorem State.recordFault_standingCount (st : StationId) (cause : FaultCause) (detail : Byte) :
    (s.recordFault st cause detail).standingCount = s.standingCount := rfl
@[simp] theorem State.recordFault_defaults (st : StationId) (cause : FaultCause) (detail : Byte) :
    (s.recordFault st cause detail).defaults = s.defaults := rfl
@[simp] theorem State.recordFault_lease (st : StationId) (cause : FaultCause) (detail : Byte) :
    (s.recordFault st cause detail).lease = s.lease := rfl
@[simp] theorem State.recordFault_stations (st : StationId) (cause : FaultCause) (detail : Byte) :
    (s.recordFault st cause detail).stations = s.stations.set st { s.ctx st with fault := (s.ctx st).fault.add cause detail } := rfl
@[simp] theorem State.recordFault_turnPointer (st : StationId) (cause : FaultCause) (detail : Byte) :
    (s.recordFault st cause detail).turnPointer = s.turnPointer := rfl
@[simp] theorem State.recordFault_resetPin (st : StationId) (cause : FaultCause) (detail : Byte) :
    (s.recordFault st cause detail).resetPin = s.resetPin := rfl
@[simp] theorem State.recordFault_dataPins (st : StationId) (cause : FaultCause) (detail : Byte) :
    (s.recordFault st cause detail).dataPins = s.dataPins := rfl
@[simp] theorem State.recordFault_pending (st : StationId) (cause : FaultCause) (detail : Byte) :
    (s.recordFault st cause detail).pending = s.pending := rfl

/-! ### The readers after the basic updates -/

@[simp] theorem State.record_setRecord_same (i : SlotId) (r : Option Record) : (s.setRecord i r).record i = r := by
  simp [State.record, State.setRecord]

theorem State.record_setRecord_ne (i j : SlotId) (r : Option Record) (h : j ≠ i) :
    (s.setRecord i r).record j = s.record j := by
  simp only [State.record, State.setRecord, Fin.getElem_fin]
  exact Vector.getElem_set_ne _ _ (fun e => h (Fin.ext e.symm))

theorem State.record_setRecord (i j : SlotId) (r : Option Record) :
    (s.setRecord i r).record j = if j = i then r else s.record j := by
  by_cases h : j = i
  · subst h; simp
  · simp [h, State.record_setRecord_ne s i j r h]

@[simp] theorem State.ctx_modifyCtx_same (a : StationId) (f : Station → Station) :
    (s.modifyCtx a f).ctx a = f (s.ctx a) := by
  simp [State.ctx, State.modifyCtx]

theorem State.ctx_modifyCtx_ne (a b : StationId) (f : Station → Station) (h : b ≠ a) :
    (s.modifyCtx a f).ctx b = s.ctx b := by
  simp only [State.ctx, State.modifyCtx, Fin.getElem_fin]
  exact Vector.getElem_set_ne _ _ (fun e => h (Fin.ext e.symm))

theorem State.ctx_modifyCtx (a b : StationId) (f : Station → Station) :
    (s.modifyCtx a f).ctx b = if b = a then f (s.ctx a) else s.ctx b := by
  by_cases h : b = a
  · subst h; simp
  · simp [h, State.ctx_modifyCtx_ne s a b f h]

@[simp] theorem State.holdingCount_setCount_same (a : StationId) (n : Nat) : (s.setCount a n).holdingCount a = n := by
  simp [State.holdingCount, State.setCount]

theorem State.holdingCount_setCount_ne (a b : StationId) (n : Nat) (h : b ≠ a) :
    (s.setCount a n).holdingCount b = s.holdingCount b := by
  simp only [State.holdingCount, State.setCount, Fin.getElem_fin]
  exact Vector.getElem_set_ne _ _ (fun e => h (Fin.ext e.symm))

theorem State.holdingCount_setCount (a b : StationId) (n : Nat) :
    (s.setCount a n).holdingCount b = if b = a then n else s.holdingCount b := by
  by_cases h : b = a
  · subst h; simp
  · simp [h, State.holdingCount_setCount_ne s a b n h]

@[simp] theorem State.record_modifyCtx (st : StationId) (f : Station → Station) (j : SlotId) :
    (s.modifyCtx st f).record j = s.record j := rfl
@[simp] theorem State.record_setCount (st : StationId) (n : Nat) (j : SlotId) :
    (s.setCount st n).record j = s.record j := rfl
@[simp] theorem State.record_raiseCount (st : StationId) (j : SlotId) : (s.raiseCount st).record j = s.record j := rfl
@[simp] theorem State.record_lowerCount (st : StationId) (j : SlotId) : (s.lowerCount st).record j = s.record j := rfl
@[simp] theorem State.record_setStandingCount (n : Nat) (j : SlotId) :
    (s.setStandingCount n).record j = s.record j := rfl
@[simp] theorem State.record_setPrescaler (n : Nat) (j : SlotId) : (s.setPrescaler n).record j = s.record j := rfl
@[simp] theorem State.record_setClass (k : ClassId) (e : LeaseClass) (j : SlotId) :
    (s.setClass k e).record j = s.record j := rfl
@[simp] theorem State.record_drive (v : Byte) (j : SlotId) : (s.drive v).record j = s.record j := rfl
@[simp] theorem State.record_release (j : SlotId) : s.release.record j = s.record j := rfl
@[simp] theorem State.record_endTurn (st : StationId) (j : SlotId) : (s.endTurn st).record j = s.record j := rfl
@[simp] theorem State.record_complete (st : StationId) (r : Result) (j : SlotId) :
    (s.complete st r).record j = s.record j := rfl
@[simp] theorem State.record_setLife (st : StationId) (l : Life) (j : SlotId) :
    (s.setLife st l).record j = s.record j := rfl
@[simp] theorem State.record_carryWalk (st : StationId) (c : Captured) (w : Walk) (j : SlotId) :
    (s.carryWalk st c w).record j = s.record j := rfl
@[simp] theorem State.record_setCursor (st : StationId) (cur : Cursor) (j : SlotId) :
    (s.setCursor st cur).record j = s.record j := rfl
@[simp] theorem State.record_pushNotice (st : StationId) (n : Notice) (j : SlotId) :
    (s.pushNotice st n).record j = s.record j := rfl
@[simp] theorem State.record_recordFault (st : StationId) (cause : FaultCause) (detail : Byte) (j : SlotId) :
    (s.recordFault st cause detail).record j = s.record j := rfl
@[simp] theorem State.ctx_setCount (st : StationId) (n : Nat) (b : StationId) :
    (s.setCount st n).ctx b = s.ctx b := rfl
@[simp] theorem State.ctx_raiseCount (st : StationId) (b : StationId) : (s.raiseCount st).ctx b = s.ctx b := rfl
@[simp] theorem State.ctx_lowerCount (st : StationId) (b : StationId) : (s.lowerCount st).ctx b = s.ctx b := rfl
@[simp] theorem State.ctx_setRecord (i : SlotId) (r : Option Record) (b : StationId) :
    (s.setRecord i r).ctx b = s.ctx b := rfl
@[simp] theorem State.ctx_setStandingCount (n : Nat) (b : StationId) : (s.setStandingCount n).ctx b = s.ctx b := rfl
@[simp] theorem State.ctx_setPrescaler (n : Nat) (b : StationId) : (s.setPrescaler n).ctx b = s.ctx b := rfl
@[simp] theorem State.ctx_setClass (k : ClassId) (e : LeaseClass) (b : StationId) :
    (s.setClass k e).ctx b = s.ctx b := rfl
@[simp] theorem State.ctx_drive (v : Byte) (b : StationId) : (s.drive v).ctx b = s.ctx b := rfl
@[simp] theorem State.ctx_release (b : StationId) : s.release.ctx b = s.ctx b := rfl
@[simp] theorem State.ctx_endTurn (st : StationId) (b : StationId) : (s.endTurn st).ctx b = s.ctx b := rfl
@[simp] theorem State.holdingCount_modifyCtx (st : StationId) (f : Station → Station) (b : StationId) :
    (s.modifyCtx st f).holdingCount b = s.holdingCount b := rfl
@[simp] theorem State.holdingCount_setRecord (i : SlotId) (r : Option Record) (b : StationId) :
    (s.setRecord i r).holdingCount b = s.holdingCount b := rfl
@[simp] theorem State.holdingCount_setStandingCount (n : Nat) (b : StationId) :
    (s.setStandingCount n).holdingCount b = s.holdingCount b := rfl
@[simp] theorem State.holdingCount_setPrescaler (n : Nat) (b : StationId) :
    (s.setPrescaler n).holdingCount b = s.holdingCount b := rfl
@[simp] theorem State.holdingCount_setClass (k : ClassId) (e : LeaseClass) (b : StationId) :
    (s.setClass k e).holdingCount b = s.holdingCount b := rfl
@[simp] theorem State.holdingCount_drive (v : Byte) (b : StationId) :
    (s.drive v).holdingCount b = s.holdingCount b := rfl
@[simp] theorem State.holdingCount_release (b : StationId) : s.release.holdingCount b = s.holdingCount b := rfl
@[simp] theorem State.holdingCount_endTurn (st : StationId) (b : StationId) :
    (s.endTurn st).holdingCount b = s.holdingCount b := rfl
@[simp] theorem State.holdingCount_complete (st : StationId) (r : Result) (b : StationId) :
    (s.complete st r).holdingCount b = s.holdingCount b := rfl
@[simp] theorem State.holdingCount_setLife (st : StationId) (l : Life) (b : StationId) :
    (s.setLife st l).holdingCount b = s.holdingCount b := rfl
@[simp] theorem State.holdingCount_carryWalk (st : StationId) (c : Captured) (w : Walk) (b : StationId) :
    (s.carryWalk st c w).holdingCount b = s.holdingCount b := rfl
@[simp] theorem State.holdingCount_setCursor (st : StationId) (cur : Cursor) (b : StationId) :
    (s.setCursor st cur).holdingCount b = s.holdingCount b := rfl
@[simp] theorem State.holdingCount_pushNotice (st : StationId) (n : Notice) (b : StationId) :
    (s.pushNotice st n).holdingCount b = s.holdingCount b := rfl
@[simp] theorem State.holdingCount_recordFault (st : StationId) (cause : FaultCause) (detail : Byte) (b : StationId) :
    (s.recordFault st cause detail).holdingCount b = s.holdingCount b := rfl
@[simp] theorem State.leaseClass_modifyCtx (st : StationId) (f : Station → Station) (k' : ClassId) :
    (s.modifyCtx st f).leaseClass k' = s.leaseClass k' := rfl
@[simp] theorem State.leaseClass_setCount (st : StationId) (n : Nat) (k' : ClassId) :
    (s.setCount st n).leaseClass k' = s.leaseClass k' := rfl
@[simp] theorem State.leaseClass_raiseCount (st : StationId) (k' : ClassId) :
    (s.raiseCount st).leaseClass k' = s.leaseClass k' := rfl
@[simp] theorem State.leaseClass_lowerCount (st : StationId) (k' : ClassId) :
    (s.lowerCount st).leaseClass k' = s.leaseClass k' := rfl
@[simp] theorem State.leaseClass_setRecord (i : SlotId) (r : Option Record) (k' : ClassId) :
    (s.setRecord i r).leaseClass k' = s.leaseClass k' := rfl
@[simp] theorem State.leaseClass_setStandingCount (n : Nat) (k' : ClassId) :
    (s.setStandingCount n).leaseClass k' = s.leaseClass k' := rfl
@[simp] theorem State.leaseClass_setPrescaler (n : Nat) (k' : ClassId) :
    (s.setPrescaler n).leaseClass k' = s.leaseClass k' := rfl
@[simp] theorem State.leaseClass_drive (v : Byte) (k' : ClassId) : (s.drive v).leaseClass k' = s.leaseClass k' := rfl
@[simp] theorem State.leaseClass_release (k' : ClassId) : s.release.leaseClass k' = s.leaseClass k' := rfl
@[simp] theorem State.leaseClass_endTurn (st : StationId) (k' : ClassId) :
    (s.endTurn st).leaseClass k' = s.leaseClass k' := rfl
@[simp] theorem State.leaseClass_complete (st : StationId) (r : Result) (k' : ClassId) :
    (s.complete st r).leaseClass k' = s.leaseClass k' := rfl
@[simp] theorem State.leaseClass_setLife (st : StationId) (l : Life) (k' : ClassId) :
    (s.setLife st l).leaseClass k' = s.leaseClass k' := rfl
@[simp] theorem State.leaseClass_carryWalk (st : StationId) (c : Captured) (w : Walk) (k' : ClassId) :
    (s.carryWalk st c w).leaseClass k' = s.leaseClass k' := rfl
@[simp] theorem State.leaseClass_setCursor (st : StationId) (cur : Cursor) (k' : ClassId) :
    (s.setCursor st cur).leaseClass k' = s.leaseClass k' := rfl
@[simp] theorem State.leaseClass_pushNotice (st : StationId) (n : Notice) (k' : ClassId) :
    (s.pushNotice st n).leaseClass k' = s.leaseClass k' := rfl
@[simp] theorem State.leaseClass_recordFault (st : StationId) (cause : FaultCause) (detail : Byte) (k' : ClassId) :
    (s.recordFault st cause detail).leaseClass k' = s.leaseClass k' := rfl
@[simp] theorem State.classLease_modifyCtx (st : StationId) (f : Station → Station) (k' : ClassId) :
    (s.modifyCtx st f).classLease k' = s.classLease k' := rfl
@[simp] theorem State.classLease_setCount (st : StationId) (n : Nat) (k' : ClassId) :
    (s.setCount st n).classLease k' = s.classLease k' := rfl
@[simp] theorem State.classLease_raiseCount (st : StationId) (k' : ClassId) :
    (s.raiseCount st).classLease k' = s.classLease k' := rfl
@[simp] theorem State.classLease_lowerCount (st : StationId) (k' : ClassId) :
    (s.lowerCount st).classLease k' = s.classLease k' := rfl
@[simp] theorem State.classLease_setRecord (i : SlotId) (r : Option Record) (k' : ClassId) :
    (s.setRecord i r).classLease k' = s.classLease k' := rfl
@[simp] theorem State.classLease_setStandingCount (n : Nat) (k' : ClassId) :
    (s.setStandingCount n).classLease k' = s.classLease k' := rfl
@[simp] theorem State.classLease_setPrescaler (n : Nat) (k' : ClassId) :
    (s.setPrescaler n).classLease k' = s.classLease k' := rfl
@[simp] theorem State.classLease_drive (v : Byte) (k' : ClassId) : (s.drive v).classLease k' = s.classLease k' := rfl
@[simp] theorem State.classLease_release (k' : ClassId) : s.release.classLease k' = s.classLease k' := rfl
@[simp] theorem State.classLease_endTurn (st : StationId) (k' : ClassId) :
    (s.endTurn st).classLease k' = s.classLease k' := rfl
@[simp] theorem State.classLease_complete (st : StationId) (r : Result) (k' : ClassId) :
    (s.complete st r).classLease k' = s.classLease k' := rfl
@[simp] theorem State.classLease_setLife (st : StationId) (l : Life) (k' : ClassId) :
    (s.setLife st l).classLease k' = s.classLease k' := rfl
@[simp] theorem State.classLease_carryWalk (st : StationId) (c : Captured) (w : Walk) (k' : ClassId) :
    (s.carryWalk st c w).classLease k' = s.classLease k' := rfl
@[simp] theorem State.classLease_setCursor (st : StationId) (cur : Cursor) (k' : ClassId) :
    (s.setCursor st cur).classLease k' = s.classLease k' := rfl
@[simp] theorem State.classLease_pushNotice (st : StationId) (n : Notice) (k' : ClassId) :
    (s.pushNotice st n).classLease k' = s.classLease k' := rfl
@[simp] theorem State.classLease_recordFault (st : StationId) (cause : FaultCause) (detail : Byte) (k' : ClassId) :
    (s.recordFault st cause detail).classLease k' = s.classLease k' := rfl
@[simp] theorem State.online_setCount (st : StationId) (n : Nat) (b : StationId) :
    (s.setCount st n).online b = s.online b := rfl
@[simp] theorem State.online_raiseCount (st : StationId) (b : StationId) :
    (s.raiseCount st).online b = s.online b := rfl
@[simp] theorem State.online_lowerCount (st : StationId) (b : StationId) :
    (s.lowerCount st).online b = s.online b := rfl
@[simp] theorem State.online_setRecord (i : SlotId) (r : Option Record) (b : StationId) :
    (s.setRecord i r).online b = s.online b := rfl
@[simp] theorem State.online_setStandingCount (n : Nat) (b : StationId) :
    (s.setStandingCount n).online b = s.online b := rfl
@[simp] theorem State.online_setPrescaler (n : Nat) (b : StationId) : (s.setPrescaler n).online b = s.online b := rfl
@[simp] theorem State.online_setClass (k : ClassId) (e : LeaseClass) (b : StationId) :
    (s.setClass k e).online b = s.online b := rfl
@[simp] theorem State.online_drive (v : Byte) (b : StationId) : (s.drive v).online b = s.online b := rfl
@[simp] theorem State.online_release (b : StationId) : s.release.online b = s.online b := rfl
@[simp] theorem State.online_endTurn (st : StationId) (b : StationId) : (s.endTurn st).online b = s.online b := rfl

/-- A change of a context depends on what it does to that context alone. -/
theorem State.modifyCtx_congr (a : StationId) (f g : Station → Station) (h : f (s.ctx a) = g (s.ctx a)) :
    s.modifyCtx a f = s.modifyCtx a g := by
  simp only [State.modifyCtx, h]

/-- A change that leaves the context as it is leaves the state as it is. -/
theorem State.modifyCtx_self (a : StationId) (f : Station → Station) (h : f (s.ctx a) = s.ctx a) : s.modifyCtx a f = s := by
  unfold State.modifyCtx
  rw [h]
  simp [State.ctx]

/-- Writing back what a slot holds leaves the state as it is. -/
theorem State.setRecord_self (i : SlotId) (r : Option Record) (h : s.record i = r) : s.setRecord i r = s := by
  subst h; simp [State.setRecord, State.record]

/-- The readers of the waits and of the table depend on the slots alone. -/
theorem State.waitOf_congr (s t : State) (h : t.slots = s.slots) (a : StationId) : t.waitOf a = s.waitOf a := by
  simp only [State.waitOf, State.record, h]

theorem State.hasWait_congr (s t : State) (h : t.slots = s.slots) (a : StationId) : t.hasWait a = s.hasWait a := by
  simp only [State.hasWait, State.waitOf_congr s t h]

theorem State.lookup_congr (s t : State) (h : t.slots = s.slots) (n : LockName) : t.lookup n = s.lookup n := by
  simp only [State.lookup, State.record, h]

theorem State.freeSlot_congr (s t : State) (h : t.slots = s.slots) : t.freeSlot = s.freeSlot := by
  simp only [State.freeSlot, State.record, h]

/-! ### Holdings of a record -/

@[simp] theorem Record.holding_setHolding_same (r : Record) (a : StationId) (h : Option Holding) :
    (r.setHolding a h).holding a = h := by
  simp [Record.holding, Record.setHolding]

theorem Record.holding_setHolding_ne (r : Record) (a b : StationId) (h : Option Holding) (hb : b ≠ a) :
    (r.setHolding a h).holding b = r.holding b := by
  simp only [Record.holding, Record.setHolding, Fin.getElem_fin]
  exact Vector.getElem_set_ne _ _ (fun e => hb (Fin.ext e.symm))

theorem Record.holding_setHolding (r : Record) (a b : StationId) (h : Option Holding) :
    (r.setHolding a h).holding b = if b = a then h else r.holding b := by
  by_cases hb : b = a
  · subst hb; simp
  · simp [hb, Record.holding_setHolding_ne r a b h hb]

@[simp] theorem Record.setHolding_name (r : Record) (a : StationId) (h : Option Holding) : (r.setHolding a h).name = r.name := rfl
@[simp] theorem Record.setHolding_kind (r : Record) (a : StationId) (h : Option Holding) : (r.setHolding a h).kind = r.kind := rfl
@[simp] theorem Record.setHolding_attrs (r : Record) (a : StationId) (h : Option Holding) : (r.setHolding a h).attrs = r.attrs := rfl
@[simp] theorem Record.setHolding_queue (r : Record) (a : StationId) (h : Option Holding) : (r.setHolding a h).queue = r.queue := rfl
@[simp] theorem Record.setHolding_taint (r : Record) (a : StationId) (h : Option Holding) : (r.setHolding a h).taint = r.taint := rfl

@[simp] theorem Record.mapHoldings_name (r : Record) (f) : (r.mapHoldings f).name = r.name := rfl
@[simp] theorem Record.mapHoldings_kind (r : Record) (f) : (r.mapHoldings f).kind = r.kind := rfl
@[simp] theorem Record.mapHoldings_attrs (r : Record) (f) : (r.mapHoldings f).attrs = r.attrs := rfl
@[simp] theorem Record.mapHoldings_queue (r : Record) (f) : (r.mapHoldings f).queue = r.queue := rfl
@[simp] theorem Record.mapHoldings_taint (r : Record) (f) : (r.mapHoldings f).taint = r.taint := rfl

/-- A change of every holding, station by station, read at one station. -/
@[simp] theorem Record.holding_mapHoldings (r : Record) (f : StationId → Holding → Option Holding) (a : StationId) :
    (r.mapHoldings f).holding a = (r.holding a).bind (f a) := by
  fin_cases a <;> rfl

/-- Two records with the same holdings and the same other fields are equal. -/
theorem Record.ext_holding (r r' : Record) (hn : r.name = r'.name) (hk : r.kind = r'.kind) (ha : r.attrs = r'.attrs)
    (hh : ∀ a, r.holding a = r'.holding a) (hq : r.queue = r'.queue) (ht : r.taint = r'.taint) : r = r' := by
  cases r with
  | mk n k at' hs q ta =>
    cases r' with
    | mk n' k' at'' hs' q' ta' =>
      simp only at hn hk ha hq ht
      subst hn; subst hk; subst ha; subst hq; subst ht
      have : hs = hs' := Vector.ext fun i hi => hh ⟨i, hi⟩
      rw [this]

end Sys2Proof.Machine
end

