-- ==== Sys2Proof/Laws/Table.lean ====
section
/-!
SUPPORT. The searches and tests the model makes over the table, each characterised once in the words of the rules: the
lookup of a name, the lowest free slot, the waits, and the tests on the holders of a record.
-/

namespace Sys2Proof.Machine

theorem mem_allSlots (i : SlotId) : i ∈ allSlots := List.mem_finRange i

theorem mem_allStations (a : StationId) : a ∈ allStations := List.mem_finRange a

/-! ### Search in order of number -/

/-- A search over all numbers in ascending order finds the least one that answers. -/
theorem findSome_finRange_eq_some {n : Nat} {β : Type} (f : Fin n → Option β) (y : β) :
    (List.finRange n).findSome? f = some y ↔ ∃ i, f i = some y ∧ ∀ j, j < i → f j = none := by
  constructor
  · intro h
    obtain ⟨l₁, a, l₂, hl, ha, hb⟩ := List.findSome?_eq_some_iff.mp h
    refine ⟨a, ha, fun j hj => hb j ?_⟩
    have hs : (List.finRange n).Pairwise (· < ·) := List.pairwise_lt_finRange n
    have hm : j ∈ List.finRange n := List.mem_finRange j
    rw [hl] at hs hm
    rcases List.mem_append.mp hm with h1 | h2
    · exact h1
    · have hp := (List.pairwise_append.mp hs).2.1
      rcases List.mem_cons.mp h2 with rfl | h3
      · exact absurd hj (lt_irrefl _)
      · exact absurd (lt_trans hj ((List.pairwise_cons.mp hp).1 j h3)) (lt_irrefl _)
  · rintro ⟨i, hi, hlt⟩
    have hm : i ∈ List.finRange n := List.mem_finRange i
    obtain ⟨l₁, l₂, hl⟩ := List.append_of_mem hm
    refine List.findSome?_eq_some_iff.mpr ⟨l₁, i, l₂, hl, hi, fun j hj => hlt j ?_⟩
    have hs : (List.finRange n).Pairwise (· < ·) := List.pairwise_lt_finRange n
    rw [hl] at hs
    exact (List.pairwise_append.mp hs).2.2 j hj i (List.mem_cons_self)

theorem findSome_finRange_eq_none {n : Nat} {β : Type} (f : Fin n → Option β) :
    (List.finRange n).findSome? f = none ↔ ∀ i, f i = none := by
  simp [List.findSome?_eq_none_iff]

theorem find_finRange_eq_some {n : Nat} (p : Fin n → Bool) (i : Fin n) :
    (List.finRange n).find? p = some i ↔ p i = true ∧ ∀ j, j < i → p j = false := by
  constructor
  · intro h
    obtain ⟨hp, l₁, l₂, hl, hb⟩ := List.find?_eq_some_iff_append.mp h
    refine ⟨hp, fun j hj => ?_⟩
    have hs : (List.finRange n).Pairwise (· < ·) := List.pairwise_lt_finRange n
    have hm : j ∈ List.finRange n := List.mem_finRange j
    rw [hl] at hs hm
    rcases List.mem_append.mp hm with h1 | h2
    · simpa using hb j h1
    · have hq := (List.pairwise_append.mp hs).2.1
      rcases List.mem_cons.mp h2 with rfl | h3
      · exact absurd hj (lt_irrefl _)
      · exact absurd (lt_trans hj ((List.pairwise_cons.mp hq).1 j h3)) (lt_irrefl _)
  · rintro ⟨hi, hlt⟩
    have hm : i ∈ List.finRange n := List.mem_finRange i
    obtain ⟨l₁, l₂, hl⟩ := List.append_of_mem hm
    refine List.find?_eq_some_iff_append.mpr ⟨hi, l₁, l₂, hl, fun j hj => ?_⟩
    have hs : (List.finRange n).Pairwise (· < ·) := List.pairwise_lt_finRange n
    rw [hl] at hs
    simp [hlt j ((List.pairwise_append.mp hs).2.2 j hj i (List.mem_cons_self))]

/-! ### Names and free slots -/

/-- With no two records of one name, the lookup finds the record that has it (R1, R2). -/
theorem State.lookup_eq_some (s : State) (hN : s.NamesLaw) (n : LockName) (i : SlotId) (r : Record) :
    s.lookup n = some (i, r) ↔ s.Named n i r := by
  unfold State.lookup State.Named
  constructor
  · intro h
    split at h
    · exact absurd h (by simp)
    · obtain ⟨j, hj, -⟩ := (findSome_finRange_eq_some _ _).mp h
      cases hr : s.record j with
      | none => rw [hr] at hj; exact absurd hj (by simp)
      | some r' =>
        rw [hr] at hj
        simp only [Option.ite_none_right_eq_some, Option.some.injEq, Prod.mk.injEq] at hj
        obtain ⟨hn, rfl, rfl⟩ := hj
        exact ⟨hr, hn⟩
  · rintro ⟨hr, rfl⟩
    have hne := (hN i r hr).1
    rw [if_neg hne]
    refine (findSome_finRange_eq_some _ _).mpr ⟨i, by simp [hr], fun j hj => ?_⟩
    cases hr' : s.record j with
    | none => rfl
    | some r' =>
      have hne' : r'.name ≠ r.name := fun e => by
        have := (hN i r hr).2 j r' hr' e
        exact absurd hj (this ▸ lt_irrefl _)
      simp [hne']

/-- The lookup finds nothing exactly where no record has the name; name 0 never matches (R1). -/
theorem State.lookup_eq_none (s : State) (n : LockName) : s.lookup n = none ↔ n = 0 ∨ s.Absent n := by
  unfold State.lookup State.Absent
  by_cases hn : n = 0
  · simp [hn]
  · simp only [hn, if_false, false_or]
    refine (findSome_finRange_eq_none _).trans (forall_congr' fun i => ?_)
    cases hr : s.record i with
    | none => simp
    | some r => simp

theorem State.freeSlot_eq_some (s : State) (i : SlotId) : s.freeSlot = some i ↔ s.LowestFree i := by
  unfold State.freeSlot State.LowestFree allSlots
  rw [find_finRange_eq_some]
  simp [Option.isNone_iff_eq_none, Option.isSome_iff_ne_none]

theorem State.freeSlot_eq_none (s : State) : s.freeSlot = none ↔ s.TableFull := by
  unfold State.freeSlot State.TableFull
  simp [List.find?_eq_none, mem_allSlots]

/-- A station's holding under a name (R41, R45, R47). -/
theorem State.holdingUnder_eq_some (s : State) (hN : s.NamesLaw) (a : StationId) (n : LockName) (i : SlotId)
    (r : Record) (h : Holding) :
    s.holdingUnder a n = some (i, r, h) ↔ s.Named n i r ∧ r.holding a = some h := by
  unfold State.holdingUnder
  cases hl : s.lookup n with
  | none =>
    simp only [reduceCtorEq, false_iff, not_and]
    intro hn
    rw [← State.lookup_eq_some s hN, hl] at hn
    exact absurd hn (by simp)
  | some x =>
    obtain ⟨j, r'⟩ := x
    have hx := (State.lookup_eq_some s hN n j r').mp hl
    simp only [Option.map_eq_some_iff, Prod.mk.injEq]
    constructor
    · rintro ⟨h', hh, rfl, rfl, rfl⟩
      exact ⟨hx, hh⟩
    · rintro ⟨hn, hh⟩
      have := (State.lookup_eq_some s hN n i r).mpr hn
      rw [hl] at this
      simp only [Option.some.injEq, Prod.mk.injEq] at this
      obtain ⟨rfl, rfl⟩ := this
      exact ⟨h, hh, rfl, rfl, rfl⟩

theorem State.holdingUnder_eq_none (s : State) (hN : s.NamesLaw) (a : StationId) (n : LockName) :
    s.holdingUnder a n = none ↔ ¬ ∃ i r h, s.Named n i r ∧ r.holding a = some h := by
  constructor
  · rintro h ⟨i, r, hh, hx⟩
    rw [(State.holdingUnder_eq_some s hN a n i r hh).mpr hx] at h
    exact absurd h (by simp)
  · intro h
    cases hx : s.holdingUnder a n with
    | none => rfl
    | some x => exact absurd ⟨x.1, x.2.1, x.2.2, (State.holdingUnder_eq_some s hN a n _ _ _).mp hx⟩ h

/-! ### The holders of a record -/

theorem Record.holds_iff (r : Record) (a : StationId) : r.holds a = true ↔ r.holding a ≠ none := by
  simp [Record.holds, Option.isSome_iff_ne_none]

theorem Record.holds_eq_false (r : Record) (a : StationId) : r.holds a = false ↔ r.holding a = none := by
  simp [Record.holds]

theorem Record.idle_iff (r : Record) : r.idle = true ↔ r.NoHolder := by
  simp [Record.idle, Record.NoHolder, List.all_eq_true, mem_allStations, Record.holds_eq_false]

theorem Record.exclusivelyHeld_eq_false (r : Record) : r.exclusivelyHeld = false ↔ r.NoExclusiveHolder := by
  unfold Record.exclusivelyHeld Record.NoExclusiveHolder
  simp only [List.any_eq_false, mem_allStations, forall_true_left]
  refine forall_congr' fun a => ?_
  cases r.holding a with
  | none => simp
  | some h => simp

theorem Record.soleHolder_iff (r : Record) (a : StationId) : r.soleHolder a = true ↔ r.OnlyHolder a := by
  unfold Record.soleHolder Record.OnlyHolder
  simp only [Bool.and_eq_true, Record.holds_iff, List.all_eq_true, mem_allStations, forall_true_left, Bool.or_eq_true,
    beq_iff_eq, Bool.not_eq_true', Record.holds_eq_false]
  exact and_congr_right fun _ => forall_congr' fun b => or_iff_not_imp_left

/-- The model's test of the head is the table of R36. -/
theorem Record.grantable_iff (r : Record) (w : Waiter) : r.grantable w = true ↔ r.HeadGrantable w := by
  unfold Record.grantable Record.HeadGrantable
  cases w.request with
  | exclusive => exact r.idle_iff
  | shared => simp [← Record.exclusivelyHeld_eq_false]
  | upgrade => exact r.soleHolder_iff _

/-- The model's test of a claim is R32. -/
theorem Record.grantableNow_iff (r : Record) (m : Mode) : r.grantableNow m = true ↔ r.GrantableNow m := by
  unfold Record.grantableNow Record.GrantableNow
  cases m <;> simp [Record.idle_iff, Record.exclusivelyHeld_eq_false]

theorem Record.retires_iff (r : Record) : r.retires = true ↔ r.ToRetire := by
  unfold Record.retires Record.ToRetire
  simp [Record.idle_iff, and_assoc]

theorem Record.upgradeWaits_iff (r : Record) (a : StationId) : r.upgradeWaits a = true ↔ r.UpgradeWaiter a := by
  unfold Record.upgradeWaits Record.UpgradeWaiter
  simp [List.any_eq_true]

theorem Record.waits_iff (r : Record) (a : StationId) : r.waits a = true ↔ ∃ w ∈ r.queue, w.station = a := by
  unfold Record.waits
  simp [List.any_eq_true]

/-! ### Waits -/

/-- A station has a wait exactly where some queue holds an entry of it (R10). -/
theorem State.hasWait_iff (s : State) (a : StationId) : s.hasWait a = true ↔ s.Waiting a := by
  unfold State.hasWait State.Waiting State.waitOf allSlots
  rw [Option.isSome_iff_ne_none, Ne, findSome_finRange_eq_none, not_forall]
  refine exists_congr fun i => ?_
  cases hr : s.record i with
  | none => simp
  | some r => simp [List.find?_eq_none]

/-- What the wait found is: an entry of the station in the record of a slot. -/
theorem State.waitOf_spec (s : State) (a : StationId) (i : SlotId) (r : Record) (w : Waiter)
    (h : s.waitOf a = some (i, r, w)) : s.record i = some r ∧ w ∈ r.queue ∧ w.station = a := by
  obtain ⟨j, hj, -⟩ := (findSome_finRange_eq_some _ _).mp h
  cases hr : s.record j with
  | none => rw [hr] at hj; exact absurd hj (by simp)
  | some r' =>
    rw [hr] at hj
    simp only [Option.map_eq_some_iff, Prod.mk.injEq] at hj
    obtain ⟨w', hw, rfl, rfl, rfl⟩ := hj
    exact ⟨hr, List.mem_of_find?_eq_some hw, by simpa using List.find?_some hw⟩

/-- A sum over the slots that is at most 1 is carried by one slot at most. -/
theorem sum_finRange_le_one {n : Nat} (f : Fin n → Nat) (h : ((List.finRange n).map f).sum ≤ 1) (i j : Fin n)
    (hi : 0 < f i) (hj : 0 < f j) : i = j := by
  rw [← List.ofFn_eq_map, List.sum_ofFn] at h
  by_contra hne
  have h2 : f i + f j ≤ ∑ k, f k := by
    have := Finset.sum_le_sum_of_subset (f := f) (Finset.subset_univ ({i, j} : Finset (Fin n)))
    rwa [Finset.sum_pair hne] at this
  omega

theorem le_sum_finRange {n : Nat} (f : Fin n → Nat) (i : Fin n) : f i ≤ ((List.finRange n).map f).sum := by
  rw [← List.ofFn_eq_map, List.sum_ofFn]
  exact Finset.single_le_sum (f := f) (fun _ _ => Nat.zero_le _) (Finset.mem_univ i)

/-- With at most one wait for each station, two entries of one station stand in one record and are one entry (R52). -/
theorem State.OneWaitLaw.unique {s : State} (h : s.OneWaitLaw) {a : StationId} {i j : SlotId} {r q : Record}
    {w v : Waiter} (hr : s.record i = some r) (hw : w ∈ r.queue) (ha : w.station = a) (hq : s.record j = some q)
    (hv : v ∈ q.queue) (hb : v.station = a) : i = j ∧ w = v := by
  have hl := h a
  unfold State.waiterEntries allSlots at hl
  have key : ∀ (k : SlotId) (p : Record) (u : Waiter), s.record k = some p → u ∈ p.queue → u.station = a →
      0 < (match s.record k with | none => 0 | some r => r.queue.countP (·.station == a)) := by
    intro k p u hk hu hs
    rw [hk]
    exact List.countP_pos_iff.mpr ⟨u, hu, by simpa using hs⟩
  have hij := sum_finRange_le_one _ hl i j (key i r w hr hw ha) (key j q v hq hv hb)
  subst hij
  rw [hr] at hq
  obtain rfl := Option.some.inj hq
  refine ⟨rfl, ?_⟩
  have hc : r.queue.countP (·.station == a) ≤ 1 := by
    have := (le_sum_finRange _ i).trans hl
    rwa [hr] at this
  rw [List.countP_eq_length_filter] at hc
  have hwf : w ∈ r.queue.filter (·.station == a) := List.mem_filter.mpr ⟨hw, by simpa using ha⟩
  have hvf : v ∈ r.queue.filter (·.station == a) := List.mem_filter.mpr ⟨hv, by simpa using hb⟩
  obtain ⟨l, hl2⟩ : ∃ l, r.queue.filter (·.station == a) = l := ⟨_, rfl⟩
  rw [hl2] at hc hwf hvf
  cases l with
  | nil => exact absurd hwf (by simp)
  | cons x xs =>
    have hxs : xs = [] := by
      cases xs with
      | nil => rfl
      | cons _ _ => simp at hc
    subst hxs
    rw [List.mem_singleton] at hwf hvf
    rw [hwf, hvf]

/-- With at most one wait for each station, the wait found is the station's entry (R10). -/
theorem State.waitOf_eq_some (s : State) (h : s.OneWaitLaw) (a : StationId) (i : SlotId) (r : Record) (w : Waiter) :
    s.waitOf a = some (i, r, w) ↔ s.record i = some r ∧ w ∈ r.queue ∧ w.station = a := by
  constructor
  · exact State.waitOf_spec s a i r w
  · rintro ⟨hr, hw, ha⟩
    have hs : s.hasWait a = true := (State.hasWait_iff s a).mpr ⟨i, r, hr, w, hw, ha⟩
    unfold State.hasWait at hs
    obtain ⟨⟨j, q, v⟩, hx⟩ := Option.isSome_iff_exists.mp hs
    obtain ⟨hq, hv, hb⟩ := State.waitOf_spec s a j q v hx
    obtain ⟨rfl, rfl⟩ := h.unique hr hw ha hq hv hb
    rw [hr] at hq
    obtain rfl := Option.some.inj hq
    exact hx

theorem State.waitOf_eq_none (s : State) (a : StationId) : s.waitOf a = none ↔ ¬ s.Waiting a := by
  rw [← State.hasWait_iff, State.hasWait]
  simp

end Sys2Proof.Machine
end

