-- ==== Sys2Proof/Laws/Grants.lean ====
section
/-!
SUPPORT. What the grant rule, the admission of a notice, and the settling of a record after a removal can do, said once.
-/

namespace Sys2Proof.Machine

theorem loadedLease_eq (s : State) (k : ClassId) : loadedLease s k = s.classLease k := rfl

/-! ### The grant rule on a record -/

@[simp] theorem Record.grantWaiter_name (r : Record) (full : Option Nat) (w : Waiter) : (r.grantWaiter full w).name = r.name := by
  unfold Record.grantWaiter; cases w.request <;> rfl
@[simp] theorem Record.grantWaiter_kind (r : Record) (full : Option Nat) (w : Waiter) : (r.grantWaiter full w).kind = r.kind := by
  unfold Record.grantWaiter; cases w.request <;> rfl
@[simp] theorem Record.grantWaiter_attrs (r : Record) (full : Option Nat) (w : Waiter) : (r.grantWaiter full w).attrs = r.attrs := by
  unfold Record.grantWaiter; cases w.request <;> rfl
@[simp] theorem Record.grantWaiter_queue (r : Record) (full : Option Nat) (w : Waiter) : (r.grantWaiter full w).queue = r.queue := by
  unfold Record.grantWaiter; cases w.request <;> rfl
@[simp] theorem Record.grantWaiter_taint (r : Record) (full : Option Nat) (w : Waiter) : (r.grantWaiter full w).taint = r.taint := by
  unfold Record.grantWaiter; cases w.request <;> rfl

/-- A grant changes the holders as R37 says. -/
theorem Record.grantWaiter_holders (r : Record) (full : Option Nat) (w : Waiter) :
    (r.grantWaiter full w).holders = r.holders.set w.station (grantedHolding full (r.holding w.station) w.request) := by
  unfold Record.grantWaiter grantedHolding; cases w.request <;> rfl

/-- Whether a head is grantable depends on the holders alone. -/
theorem Record.headGrantable_queue (r : Record) (q : List Waiter) (w : Waiter) :
    ({ r with queue := q } : Record).HeadGrantable w ↔ r.HeadGrantable w := Iff.rfl

/-- The model's run is the run of R36 to R38. -/
theorem grantRun_spec (full : Option Nat) (q : List Waiter) (r : Record) :
    GrantRun full { r with queue := q } (grantRun full q r).2 (grantRun full q r).1 := by
  induction q generalizing r with
  | nil => exact .stopEmpty _ rfl
  | cons w ws ih =>
    unfold grantRun
    by_cases hg : r.grantable w = true
    · simp only [hg, if_true]
      refine .grant _ w ws _ _ rfl ((r.headGrantable_queue _ w).mpr ((r.grantable_iff w).mp hg)) ?_
      have h := ih (r.grantWaiter full w)
      have e : ({ r.grantWaiter full w with queue := ws } : Record) =
          { ({ r with queue := w :: ws } : Record) with
            queue := ws
            holders := r.holders.set w.station (grantedHolding full (r.holding w.station) w.request) } := by
        unfold Record.grantWaiter grantedHolding
        cases w.request <;> rfl
      rw [e] at h
      exact h
    · simp only [hg]
      exact .stopHeld _ w ws rfl fun h => hg ((r.grantable_iff w).mpr h)

theorem GrantRun.name {full : Option Nat} {r r' : Record} {b : List Waiter} (h : GrantRun full r b r') : r'.name = r.name := by
  induction h with
  | stopEmpty _ _ => rfl
  | stopHeld _ _ _ _ _ => rfl
  | grant _ _ _ _ _ _ _ _ ih => exact ih

theorem GrantRun.kind {full : Option Nat} {r r' : Record} {b : List Waiter} (h : GrantRun full r b r') : r'.kind = r.kind := by
  induction h with
  | stopEmpty _ _ => rfl
  | stopHeld _ _ _ _ _ => rfl
  | grant _ _ _ _ _ _ _ _ ih => exact ih

theorem GrantRun.attrs {full : Option Nat} {r r' : Record} {b : List Waiter} (h : GrantRun full r b r') :
    r'.attrs = r.attrs := by
  induction h with
  | stopEmpty _ _ => rfl
  | stopHeld _ _ _ _ _ => rfl
  | grant _ _ _ _ _ _ _ _ ih => exact ih

theorem GrantRun.taint {full : Option Nat} {r r' : Record} {b : List Waiter} (h : GrantRun full r b r') :
    r'.taint = r.taint := by
  induction h with
  | stopEmpty _ _ => rfl
  | stopHeld _ _ _ _ _ => rfl
  | grant _ _ _ _ _ _ _ _ ih => exact ih

/-- The batch is a run of entries from the head (R38). -/
theorem GrantRun.queue {full : Option Nat} {r r' : Record} {b : List Waiter} (h : GrantRun full r b r') :
    r.queue = b ++ r'.queue := by
  induction h with
  | stopEmpty _ _ => rfl
  | stopHeld _ _ _ _ _ => rfl
  | grant _ w ws _ _ hq _ _ ih => rw [hq]; exact congrArg (w :: ·) ih

/-- A run ends at a head that is not grantable, or at an empty queue (R39). -/
theorem GrantRun.headHeldBack {full : Option Nat} {r r' : Record} {b : List Waiter} (h : GrantRun full r b r') :
    r'.HeadHeldBack := by
  induction h with
  | stopEmpty r hq => intro w hw; rw [hq] at hw; exact absurd hw (by simp)
  | stopHeld r w ws hq hn =>
    intro v hv
    rw [hq] at hv
    simp only [List.head?_cons, Option.mem_def, Option.some.injEq] at hv
    exact hv ▸ hn
  | grant _ _ _ _ _ _ _ _ ih => exact ih

/-- A station without an entry in the batch keeps its holding. -/
theorem GrantRun.holding_of_not_mem {full : Option Nat} {r r' : Record} {b : List Waiter} (h : GrantRun full r b r')
    (a : StationId) (ha : ∀ w ∈ b, w.station ≠ a) : r'.holding a = r.holding a := by
  induction h with
  | stopEmpty _ _ => rfl
  | stopHeld _ _ _ _ _ => rfl
  | grant r w ws b r' hq hg hrun ih =>
    rw [ih fun v hv => ha v (List.mem_cons_of_mem _ hv)]
    exact Record.holding_setHolding_ne r w.station a _ (Ne.symm (ha w List.mem_cons_self))

/-- A station that holds the record keeps a holding through the run. -/
theorem GrantRun.holding_ne_none {full : Option Nat} {r r' : Record} {b : List Waiter} (h : GrantRun full r b r')
    (a : StationId) (ha : r.holding a ≠ none) : r'.holding a ≠ none := by
  induction h with
  | stopEmpty _ _ => exact ha
  | stopHeld _ _ _ _ _ => exact ha
  | grant r w ws b r' hq hg hrun ih =>
    apply ih
    have e := Record.holding_setHolding r w.station a (grantedHolding full (r.holding w.station) w.request)
    by_cases hw : a = w.station
    · subst hw
      simp only [if_true] at e
      refine fun hn => ?_
      have e2 := e.symm.trans hn
      unfold grantedHolding at e2
      cases hreq : w.request with
      | shared => rw [hreq] at e2; exact absurd e2 (by simp)
      | exclusive => rw [hreq] at e2; exact absurd e2 (by simp)
      | upgrade => rw [hreq] at e2; exact ha (by simpa using e2)
    · rw [if_neg hw] at e
      exact fun hn => ha (e.symm.trans hn)

/-! ### The admission of a notice -/

/-- A notice changes nothing but the notice queue and NOTICE LOST of its station (R133, R134). -/
theorem State.queueNotice_eq (s : State) (a : StationId) (n : Notice) :
    s.queueNotice a n =
      s.modifyCtx a fun x => { x with
        notices := ((s.queueNotice a n).ctx a).notices, noticeLost := ((s.queueNotice a n).ctx a).noticeLost } := by
  have key : ∀ f : Station → Station, (∀ x, f x = { x with notices := (f x).notices, noticeLost := (f x).noticeLost }) →
      s.modifyCtx a f = s.modifyCtx a fun x => { x with
        notices := ((s.modifyCtx a f).ctx a).notices, noticeLost := ((s.modifyCtx a f).ctx a).noticeLost } := by
    intro f hf
    simp only [State.ctx_modifyCtx_same]
    exact State.modifyCtx_congr s a f _ (hf (s.ctx a))
  unfold State.queueNotice
  split
  · split
    · exact key _ fun _ => rfl
    · exact key _ fun _ => rfl
  · exact (State.modifyCtx_self s a _ rfl).symm

@[simp] theorem State.queueNotice_slots (s : State) (a : StationId) (n : Notice) : (s.queueNotice a n).slots = s.slots := by
  rw [State.queueNotice_eq]; rfl
@[simp] theorem State.queueNotice_holdingCounts (s : State) (a : StationId) (n : Notice) :
    (s.queueNotice a n).holdingCounts = s.holdingCounts := by rw [State.queueNotice_eq]; rfl
@[simp] theorem State.queueNotice_standingCount (s : State) (a : StationId) (n : Notice) :
    (s.queueNotice a n).standingCount = s.standingCount := by rw [State.queueNotice_eq]; rfl
@[simp] theorem State.queueNotice_defaults (s : State) (a : StationId) (n : Notice) :
    (s.queueNotice a n).defaults = s.defaults := by rw [State.queueNotice_eq]; rfl
@[simp] theorem State.queueNotice_lease (s : State) (a : StationId) (n : Notice) :
    (s.queueNotice a n).lease = s.lease := by rw [State.queueNotice_eq]; rfl
@[simp] theorem State.queueNotice_turnPointer (s : State) (a : StationId) (n : Notice) :
    (s.queueNotice a n).turnPointer = s.turnPointer := by rw [State.queueNotice_eq]; rfl
@[simp] theorem State.queueNotice_resetPin (s : State) (a : StationId) (n : Notice) :
    (s.queueNotice a n).resetPin = s.resetPin := by rw [State.queueNotice_eq]; rfl
@[simp] theorem State.queueNotice_dataPins (s : State) (a : StationId) (n : Notice) :
    (s.queueNotice a n).dataPins = s.dataPins := by rw [State.queueNotice_eq]; rfl
@[simp] theorem State.queueNotice_pending (s : State) (a : StationId) (n : Notice) :
    (s.queueNotice a n).pending = s.pending := by rw [State.queueNotice_eq]; rfl

/-- A notice for another station leaves a context as it is. -/
theorem State.ctx_queueNotice_ne (s : State) (a b : StationId) (n : Notice) (h : b ≠ a) :
    (s.queueNotice a n).ctx b = s.ctx b := by
  rw [State.queueNotice_eq]; exact State.ctx_modifyCtx_ne s a b _ h

/-- A notice changes a context in its queue and NOTICE LOST alone. -/
theorem State.ctx_queueNotice (s : State) (a b : StationId) (n : Notice) :
    (s.queueNotice a n).ctx b = { s.ctx b with
      notices := ((s.queueNotice a n).ctx b).notices, noticeLost := ((s.queueNotice a n).ctx b).noticeLost } := by
  by_cases h : b = a
  · subst h
    conv_lhs => rw [State.queueNotice_eq, State.ctx_modifyCtx_same]
  · rw [State.ctx_queueNotice_ne s a b n h]

@[simp] theorem State.online_queueNotice (s : State) (a b : StationId) (n : Notice) :
    (s.queueNotice a n).online b = s.online b := by
  unfold State.online; rw [State.ctx_queueNotice]

/-- A wait outcome enters the queue of an ONLINE station (R134). -/
theorem State.queueNotice_outcome (s : State) (a : StationId) (n : Notice) (ho : s.online a = true)
    (hn : n.kind.isWaitOutcome = true) : s.queueNotice a n = s.pushNotice a n := by
  simp [State.queueNotice, ho, hn]

/-- A notice for a station that is not ONLINE is discarded (R133). -/
theorem State.queueNotice_offline (s : State) (a : StationId) (n : Notice) (ho : s.online a = false) :
    s.queueNotice a n = s := by
  simp [State.queueNotice, ho]

/-- A notice that is in a queue stays there while others enter. -/
theorem State.mem_notices_queueNotice (s : State) (a b : StationId) (m n : Notice) (h : m ∈ (s.ctx b).notices) :
    m ∈ ((s.queueNotice a n).ctx b).notices := by
  by_cases hb : b = a
  · subst hb
    unfold State.queueNotice
    split
    · split
      · simp only [State.pushNotice, State.ctx_modifyCtx_same]; exact List.mem_append_left _ h
      · simpa using h
    · exact h
  · rw [State.ctx_queueNotice_ne s a b n hb]; exact h

/-- NOTICE LOST stays set while notices enter. -/
theorem State.noticeLost_queueNotice (s : State) (a b : StationId) (n : Notice) (h : (s.ctx b).noticeLost = true) :
    ((s.queueNotice a n).ctx b).noticeLost = true := by
  by_cases hb : b = a
  · subst hb
    unfold State.queueNotice
    split
    · split
      · simpa [State.pushNotice] using h
      · simp
    · exact h
  · rw [State.ctx_queueNotice_ne s a b n hb]; exact h

/-- A notice for an ONLINE station enters its queue, or its discard sets NOTICE LOST (R134, R136). -/
theorem State.queueNotice_enters_or_lost (s : State) (a : StationId) (n : Notice) (ho : s.online a = true) :
    n ∈ ((s.queueNotice a n).ctx a).notices ∨ ((s.queueNotice a n).ctx a).noticeLost = true := by
  unfold State.queueNotice
  rw [if_pos ho]
  split
  · left; simp [State.pushNotice]
  · right; simp

/-! ### A run of steps over a list, each keeping something -/

/-- What every step of a fold keeps, the fold keeps. -/
theorem foldl_keeps {α β : Type} (f : State → α → State) (v : State → β) (hf : ∀ s x, v (f s x) = v s) (l : List α)
    (s : State) : v (l.foldl f s) = v s := by
  induction l generalizing s with
  | nil => rfl
  | cons x xs ih => exact (ih (f s x)).trans (hf s x)

/-- A property that every step of a fold keeps, the fold keeps. -/
theorem foldl_holds {α : Type} (f : State → α → State) (P : State → Prop) (hf : ∀ s x, P s → P (f s x)) (l : List α)
    (s : State) (hs : P s) : P (l.foldl f s) := by
  induction l generalizing s with
  | nil => exact hs
  | cons x xs ih => exact ih (f s x) (hf s x hs)

/-! ### The announcement of grants -/

@[simp] theorem State.announceGrant_slots (r : Record) (s : State) (w : Waiter) : (s.announceGrant r w).slots = s.slots := by
  unfold State.announceGrant; split <;> simp
@[simp] theorem State.announceGrant_standingCount (r : Record) (s : State) (w : Waiter) :
    (s.announceGrant r w).standingCount = s.standingCount := by unfold State.announceGrant; split <;> simp
@[simp] theorem State.announceGrant_defaults (r : Record) (s : State) (w : Waiter) :
    (s.announceGrant r w).defaults = s.defaults := by unfold State.announceGrant; split <;> simp
@[simp] theorem State.announceGrant_lease (r : Record) (s : State) (w : Waiter) :
    (s.announceGrant r w).lease = s.lease := by unfold State.announceGrant; split <;> simp
@[simp] theorem State.announceGrant_turnPointer (r : Record) (s : State) (w : Waiter) :
    (s.announceGrant r w).turnPointer = s.turnPointer := by unfold State.announceGrant; split <;> simp
@[simp] theorem State.announceGrant_resetPin (r : Record) (s : State) (w : Waiter) :
    (s.announceGrant r w).resetPin = s.resetPin := by unfold State.announceGrant; split <;> simp
@[simp] theorem State.announceGrant_dataPins (r : Record) (s : State) (w : Waiter) :
    (s.announceGrant r w).dataPins = s.dataPins := by unfold State.announceGrant; split <;> simp
@[simp] theorem State.announceGrant_pending (r : Record) (s : State) (w : Waiter) :
    (s.announceGrant r w).pending = s.pending := by unfold State.announceGrant; split <;> simp

end Sys2Proof.Machine
end

