-- ==== Sys2Proof/Laws/Settle.lean ====
section
/-!
SUPPORT. What the settling of a record, the end of a wait and the step of a walk leave as it is, and what they make of the
record, the counts and the notice queues.
-/

namespace Sys2Proof.Machine

/-- A context is changed in its notice queue and NOTICE LOST alone. -/
def SameButNotices (x y : Station) : Prop := y = { x with notices := y.notices, noticeLost := y.noticeLost }

theorem SameButNotices.refl (x : Station) : SameButNotices x x := rfl

theorem SameButNotices.trans {x y z : Station} (h : SameButNotices x y) (k : SameButNotices y z) : SameButNotices x z := by
  unfold SameButNotices at *
  rw [k, h]

theorem SameButNotices.life {x y : Station} (h : SameButNotices x y) : y.life = x.life := by rw [h]
theorem SameButNotices.slot {x y : Station} (h : SameButNotices x y) : y.slot = x.slot := by rw [h]
theorem SameButNotices.stage {x y : Station} (h : SameButNotices x y) : y.stage = x.stage := by rw [h]
theorem SameButNotices.lastCode {x y : Station} (h : SameButNotices x y) : y.lastCode = x.lastCode := by rw [h]
theorem SameButNotices.result {x y : Station} (h : SameButNotices x y) : y.result = x.result := by rw [h]
theorem SameButNotices.resultReady {x y : Station} (h : SameButNotices x y) : y.resultReady = x.resultReady := by rw [h]
theorem SameButNotices.cursor {x y : Station} (h : SameButNotices x y) : y.cursor = x.cursor := by rw [h]
theorem SameButNotices.fault {x y : Station} (h : SameButNotices x y) : y.fault = x.fault := by rw [h]
theorem SameButNotices.mask {x y : Station} (h : SameButNotices x y) : y.mask = x.mask := by rw [h]
theorem SameButNotices.windowName {x y : Station} (h : SameButNotices x y) : y.windowName = x.windowName := by rw [h]
theorem SameButNotices.windowDetail {x y : Station} (h : SameButNotices x y) : y.windowDetail = x.windowDetail := by rw [h]

theorem State.ctx_queueNotice_same (s : State) (a b : StationId) (n : Notice) :
    SameButNotices (s.ctx b) ((s.queueNotice a n).ctx b) := s.ctx_queueNotice a b n

/-- Steps that each change contexts in their notices alone do so together. -/
theorem foldl_sameButNotices {α : Type} (f : State → α → State) (b : StationId)
    (hf : ∀ s x, SameButNotices (s.ctx b) ((f s x).ctx b)) (l : List α) (s : State) :
    SameButNotices (s.ctx b) ((l.foldl f s).ctx b) := by
  induction l generalizing s with
  | nil => exact .refl _
  | cons x xs ih => exact (hf s x).trans (ih (f s x))

theorem State.announceGrant_same (r : Record) (s : State) (w : Waiter) (b : StationId) :
    SameButNotices (s.ctx b) ((s.announceGrant r w).ctx b) := by
  unfold State.announceGrant
  split
  · exact s.ctx_queueNotice_same _ _ _
  · exact (s.raiseCount w.station).ctx_queueNotice_same _ _ _

/-! ### Notices, one after the other -/

@[simp] theorem State.queueNotices_slots (s : State) (ns : List (StationId × Notice)) :
    (s.queueNotices ns).slots = s.slots := foldl_keeps _ (·.slots) (by simp) ns s
@[simp] theorem State.queueNotices_holdingCounts (s : State) (ns : List (StationId × Notice)) :
    (s.queueNotices ns).holdingCounts = s.holdingCounts := foldl_keeps _ (·.holdingCounts) (by simp) ns s
@[simp] theorem State.queueNotices_standingCount (s : State) (ns : List (StationId × Notice)) :
    (s.queueNotices ns).standingCount = s.standingCount := foldl_keeps _ (·.standingCount) (by simp) ns s
@[simp] theorem State.queueNotices_defaults (s : State) (ns : List (StationId × Notice)) :
    (s.queueNotices ns).defaults = s.defaults := foldl_keeps _ (·.defaults) (by simp) ns s
@[simp] theorem State.queueNotices_lease (s : State) (ns : List (StationId × Notice)) :
    (s.queueNotices ns).lease = s.lease := foldl_keeps _ (·.lease) (by simp) ns s
@[simp] theorem State.queueNotices_turnPointer (s : State) (ns : List (StationId × Notice)) :
    (s.queueNotices ns).turnPointer = s.turnPointer := foldl_keeps _ (·.turnPointer) (by simp) ns s
@[simp] theorem State.queueNotices_resetPin (s : State) (ns : List (StationId × Notice)) :
    (s.queueNotices ns).resetPin = s.resetPin := foldl_keeps _ (·.resetPin) (by simp) ns s
@[simp] theorem State.queueNotices_dataPins (s : State) (ns : List (StationId × Notice)) :
    (s.queueNotices ns).dataPins = s.dataPins := foldl_keeps _ (·.dataPins) (by simp) ns s
@[simp] theorem State.queueNotices_pending (s : State) (ns : List (StationId × Notice)) :
    (s.queueNotices ns).pending = s.pending := foldl_keeps _ (·.pending) (by simp) ns s

theorem State.queueNotices_same (s : State) (ns : List (StationId × Notice)) (b : StationId) :
    SameButNotices (s.ctx b) ((s.queueNotices ns).ctx b) :=
  foldl_sameButNotices _ b (fun s _ => s.ctx_queueNotice_same _ _ _) ns s

/-! ### The retirement test -/

@[simp] theorem State.retirementTest_holdingCounts (s : State) (i : SlotId) : (s.retirementTest i).holdingCounts = s.holdingCounts := by
  unfold State.retirementTest; split <;> [(split <;> rfl); rfl]
@[simp] theorem State.retirementTest_stations (s : State) (i : SlotId) : (s.retirementTest i).stations = s.stations := by
  unfold State.retirementTest; split <;> [(split <;> rfl); rfl]
@[simp] theorem State.retirementTest_standingCount (s : State) (i : SlotId) : (s.retirementTest i).standingCount = s.standingCount := by
  unfold State.retirementTest; split <;> [(split <;> rfl); rfl]
@[simp] theorem State.retirementTest_defaults (s : State) (i : SlotId) : (s.retirementTest i).defaults = s.defaults := by
  unfold State.retirementTest; split <;> [(split <;> rfl); rfl]
@[simp] theorem State.retirementTest_lease (s : State) (i : SlotId) : (s.retirementTest i).lease = s.lease := by
  unfold State.retirementTest; split <;> [(split <;> rfl); rfl]
@[simp] theorem State.retirementTest_turnPointer (s : State) (i : SlotId) : (s.retirementTest i).turnPointer = s.turnPointer := by
  unfold State.retirementTest; split <;> [(split <;> rfl); rfl]
@[simp] theorem State.retirementTest_resetPin (s : State) (i : SlotId) : (s.retirementTest i).resetPin = s.resetPin := by
  unfold State.retirementTest; split <;> [(split <;> rfl); rfl]
@[simp] theorem State.retirementTest_dataPins (s : State) (i : SlotId) : (s.retirementTest i).dataPins = s.dataPins := by
  unfold State.retirementTest; split <;> [(split <;> rfl); rfl]
@[simp] theorem State.retirementTest_pending (s : State) (i : SlotId) : (s.retirementTest i).pending = s.pending := by
  unfold State.retirementTest; split <;> [(split <;> rfl); rfl]

@[simp] theorem State.ctx_retirementTest (s : State) (i : SlotId) (b : StationId) : (s.retirementTest i).ctx b = s.ctx b := by
  simp [State.ctx]

@[simp] theorem State.holdingCount_retirementTest (s : State) (i : SlotId) (b : StationId) :
    (s.retirementTest i).holdingCount b = s.holdingCount b := by
  simp [State.holdingCount]

theorem State.record_retirementTest_ne (s : State) (i j : SlotId) (h : j ≠ i) :
    (s.retirementTest i).record j = s.record j := by
  unfold State.retirementTest
  split
  · split
    · exact s.record_setRecord_ne i j _ h
    · rfl
  · rfl

/-- The test frees the slot of a record to retire, and no other (R17). -/
theorem State.record_retirementTest (s : State) (i : SlotId) (r : Record) (h : s.record i = some r) :
    (r.ToRetire → (s.retirementTest i).record i = none) ∧ (¬ r.ToRetire → (s.retirementTest i).record i = some r) := by
  unfold State.retirementTest
  rw [h]
  constructor
  · intro hr
    simp [(r.retires_iff).mpr hr]
  · intro hr
    have : r.retires = false := by simpa using fun e => hr ((r.retires_iff).mp e)
    simp [this, h]

/-! ### The settling of a record -/

/-- The run of the grant rule that settles a record. -/
def settleRun (s : State) (r : Record) : Record × List Waiter := grantRun (s.classLease r.attrs.leaseClass) r.queue r

theorem settleRun_spec (s : State) (r : Record) :
    GrantRun (loadedLease s r.attrs.leaseClass) r (settleRun s r).2 (settleRun s r).1 := by
  have h := grantRun_spec (s.classLease r.attrs.leaseClass) r.queue r
  exact h

theorem State.settle_none (s : State) (i : SlotId) (h : s.record i = none) : s.settle i = s := by
  unfold State.settle; rw [h]

theorem State.settle_some (s : State) (i : SlotId) (r : Record) (h : s.record i = some r) :
    s.settle i = ((settleRun s r).2.foldl (State.announceGrant (settleRun s r).1)
      (s.setRecord i (some (settleRun s r).1))).retirementTest i := by
  unfold State.settle; rw [h]; rfl

theorem State.announceGrants_slots (r : Record) (l : List Waiter) (s : State) :
    (l.foldl (State.announceGrant r) s).slots = s.slots := foldl_keeps _ (·.slots) (by simp) l s

@[simp] theorem State.settle_standingCount (s : State) (i : SlotId) : (s.settle i).standingCount = s.standingCount := by
  cases h : s.record i with
  | none => rw [s.settle_none i h]
  | some r =>
    rw [s.settle_some i r h, State.retirementTest_standingCount, foldl_keeps _ (·.standingCount) (by simp)]; rfl
@[simp] theorem State.settle_defaults (s : State) (i : SlotId) : (s.settle i).defaults = s.defaults := by
  cases h : s.record i with
  | none => rw [s.settle_none i h]
  | some r =>
    rw [s.settle_some i r h, State.retirementTest_defaults, foldl_keeps _ (·.defaults) (by simp)]; rfl
@[simp] theorem State.settle_lease (s : State) (i : SlotId) : (s.settle i).lease = s.lease := by
  cases h : s.record i with
  | none => rw [s.settle_none i h]
  | some r =>
    rw [s.settle_some i r h, State.retirementTest_lease, foldl_keeps _ (·.lease) (by simp)]; rfl
@[simp] theorem State.settle_turnPointer (s : State) (i : SlotId) : (s.settle i).turnPointer = s.turnPointer := by
  cases h : s.record i with
  | none => rw [s.settle_none i h]
  | some r =>
    rw [s.settle_some i r h, State.retirementTest_turnPointer, foldl_keeps _ (·.turnPointer) (by simp)]; rfl
@[simp] theorem State.settle_resetPin (s : State) (i : SlotId) : (s.settle i).resetPin = s.resetPin := by
  cases h : s.record i with
  | none => rw [s.settle_none i h]
  | some r =>
    rw [s.settle_some i r h, State.retirementTest_resetPin, foldl_keeps _ (·.resetPin) (by simp)]; rfl
@[simp] theorem State.settle_dataPins (s : State) (i : SlotId) : (s.settle i).dataPins = s.dataPins := by
  cases h : s.record i with
  | none => rw [s.settle_none i h]
  | some r =>
    rw [s.settle_some i r h, State.retirementTest_dataPins, foldl_keeps _ (·.dataPins) (by simp)]; rfl
@[simp] theorem State.settle_pending (s : State) (i : SlotId) : (s.settle i).pending = s.pending := by
  cases h : s.record i with
  | none => rw [s.settle_none i h]
  | some r =>
    rw [s.settle_some i r h, State.retirementTest_pending, foldl_keeps _ (·.pending) (by simp)]; rfl

theorem State.settle_same (s : State) (i : SlotId) (b : StationId) : SameButNotices (s.ctx b) ((s.settle i).ctx b) := by
  cases h : s.record i with
  | none => rw [s.settle_none i h]; exact .refl _
  | some r =>
    rw [s.settle_some i r h, State.ctx_retirementTest]
    exact foldl_sameButNotices _ b (fun s w => State.announceGrant_same _ s w b) _ (s.setRecord i _)

/-- Settling a record leaves every other slot. -/
theorem State.record_settle_ne (s : State) (i j : SlotId) (h : j ≠ i) : (s.settle i).record j = s.record j := by
  cases hr : s.record i with
  | none => rw [s.settle_none i hr]
  | some r =>
    rw [s.settle_some i r hr, State.record_retirementTest_ne _ i j h]
    unfold State.record
    rw [State.announceGrants_slots]
    exact s.record_setRecord_ne i j _ h

/-- What settling makes of the record: the record its run ends with, or a free slot where that retires (R36 to R40). -/
theorem State.record_settle (s : State) (i : SlotId) (r : Record) (h : s.record i = some r) :
    ((settleRun s r).1.ToRetire → (s.settle i).record i = none)
      ∧ (¬ (settleRun s r).1.ToRetire → (s.settle i).record i = some (settleRun s r).1) := by
  rw [s.settle_some i r h]
  refine State.record_retirementTest _ i _ ?_
  unfold State.record
  rw [State.announceGrants_slots]
  exact s.record_setRecord_same i _

/-- After settling, a record in the slot is the one its run ends with. -/
theorem State.record_settle_mem (s : State) (i : SlotId) (r r' : Record) (h : s.record i = some r)
    (h' : (s.settle i).record i = some r') : r' = (settleRun s r).1 := by
  by_cases ht : (settleRun s r).1.ToRetire
  · rw [(s.record_settle i r h).1 ht] at h'; exact absurd h' (by simp)
  · rw [(s.record_settle i r h).2 ht] at h'; exact (Option.some.inj h').symm

/-- Settling counts the new holdings: one for each claim waiter granted (R37). -/
theorem State.holdingCount_settle (s : State) (i : SlotId) (r : Record) (h : s.record i = some r) (a : StationId) :
    (s.settle i).holdingCount a =
      s.holdingCount a + (settleRun s r).2.countP fun w => decide (w.station = a ∧ w.request ≠ .upgrade) := by
  rw [s.settle_some i r h, State.holdingCount_retirementTest]
  have key : ∀ (q : Record) (l : List Waiter) (u : State),
      (l.foldl (State.announceGrant q) u).holdingCount a =
        u.holdingCount a + l.countP fun w => decide (w.station = a ∧ w.request ≠ .upgrade) := by
    intro q l
    induction l with
    | nil => intro u; rfl
    | cons w ws ih =>
      intro u
      rw [List.foldl_cons, ih, List.countP_cons]
      have hw : (u.announceGrant q w).holdingCount a =
          u.holdingCount a + if w.station = a ∧ w.request ≠ .upgrade then 1 else 0 := by
        unfold State.announceGrant State.holdingCount
        rw [State.queueNotice_holdingCounts]
        by_cases hu : w.request = .upgrade
        · simp [hu]
        · simp only [hu, if_false, ne_eq, not_false_eq_true, and_true]
          have := State.holdingCount_setCount u w.station a (u.holdingCount w.station + 1)
          unfold State.holdingCount at this
          rw [State.raiseCount]
          unfold State.holdingCount
          rw [this]
          by_cases ha : w.station = a
          · subst ha; simp
          · simp [ha, Ne.symm ha]
      rw [hw]
      simp only [decide_eq_true_eq]
      omega
  rw [key]
  rfl

/-- Settling queues a GRANTED notice for each station granted that is ONLINE, and no other (R37, R133). -/
theorem State.notices_settle (s : State) (i : SlotId) (r : Record) (h : s.record i = some r) (a : StationId) :
    (s.settle i).ctx a =
      { s.ctx a with
        notices := (s.ctx a).notices ++
          if s.online a = true then
            ((settleRun s r).2.filter fun w => decide (w.station = a)).map (settleRun s r).1.grantedNotice
          else [] } := by
  rw [s.settle_some i r h, State.ctx_retirementTest]
  have key : ∀ (q : Record) (l : List Waiter) (u : State),
      (l.foldl (State.announceGrant q) u).ctx a =
        { u.ctx a with
          notices := (u.ctx a).notices ++
            if u.online a = true then (l.filter fun w => decide (w.station = a)).map q.grantedNotice else [] } := by
    intro q l
    induction l with
    | nil => intro u; simp
    | cons w ws ih =>
      intro u
      rw [List.foldl_cons, ih]
      have ho : ∀ v : State, (v.announceGrant q w).online a = v.online a := by
        intro v; unfold State.announceGrant; split <;> simp [State.raiseCount]
      have hv : ∀ v : State, v.ctx a = u.ctx a → (v.queueNotice w.station (q.grantedNotice w)).ctx a =
          { u.ctx a with
            notices := (u.ctx a).notices ++
              if u.online a = true ∧ w.station = a then [q.grantedNotice w] else [] } := by
        intro v hva
        have hoa : v.online a = u.online a := by unfold State.online; rw [hva]
        by_cases hwa : w.station = a
        · subst hwa
          by_cases hon : u.online w.station = true
          · rw [State.queueNotice_outcome _ _ _ (hoa.trans hon) rfl]
            simp [State.pushNotice, hva, hon]
          · rw [State.queueNotice_offline _ _ _ (by simpa [hoa] using hon)]
            simp [hva, hon]
        · rw [State.ctx_queueNotice_ne v w.station a _ (Ne.symm hwa)]
          simp [hva, hwa]
      have hw : (u.announceGrant q w).ctx a =
          { u.ctx a with
            notices := (u.ctx a).notices ++
              if u.online a = true ∧ w.station = a then [q.grantedNotice w] else [] } := by
        unfold State.announceGrant
        split
        · exact hv u rfl
        · exact hv (u.raiseCount w.station) rfl
      rw [hw, ho u]
      by_cases hon : u.online a = true
      · by_cases hwa : w.station = a
        · simp [hon, hwa]
        · simp [hon, hwa]
      · simp [hon]
  rw [key]
  rfl

/-! ### The end of a wait and the step of a walk -/

@[simp] theorem State.endWait_standingCount (s : State) (a : StationId) : (s.endWait a).standingCount = s.standingCount := by
  unfold State.endWait; split <;> simp
@[simp] theorem State.endWait_defaults (s : State) (a : StationId) : (s.endWait a).defaults = s.defaults := by
  unfold State.endWait; split <;> simp
@[simp] theorem State.endWait_lease (s : State) (a : StationId) : (s.endWait a).lease = s.lease := by
  unfold State.endWait; split <;> simp
@[simp] theorem State.endWait_turnPointer (s : State) (a : StationId) : (s.endWait a).turnPointer = s.turnPointer := by
  unfold State.endWait; split <;> simp
@[simp] theorem State.endWait_resetPin (s : State) (a : StationId) : (s.endWait a).resetPin = s.resetPin := by
  unfold State.endWait; split <;> simp
@[simp] theorem State.endWait_dataPins (s : State) (a : StationId) : (s.endWait a).dataPins = s.dataPins := by
  unfold State.endWait; split <;> simp
@[simp] theorem State.endWait_pending (s : State) (a : StationId) : (s.endWait a).pending = s.pending := by
  unfold State.endWait; split <;> simp

theorem State.endWait_same (s : State) (a b : StationId) : SameButNotices (s.ctx b) ((s.endWait a).ctx b) := by
  unfold State.endWait
  split
  · exact .refl _
  · exact State.settle_same (s.setRecord _ _) _ b

@[simp] theorem walkEffect_standingCount (w : Walk) (s : State) : (walkEffect w s).1.standingCount = s.standingCount := by
  unfold walkEffect
  split
  · rfl
  · split
    · rfl
    · simp [State.dropHolding]
@[simp] theorem walkEffect_defaults (w : Walk) (s : State) : (walkEffect w s).1.defaults = s.defaults := by
  unfold walkEffect
  split
  · rfl
  · split
    · rfl
    · simp [State.dropHolding]
@[simp] theorem walkEffect_lease (w : Walk) (s : State) : (walkEffect w s).1.lease = s.lease := by
  unfold walkEffect
  split
  · rfl
  · split
    · rfl
    · simp [State.dropHolding]
@[simp] theorem walkEffect_turnPointer (w : Walk) (s : State) : (walkEffect w s).1.turnPointer = s.turnPointer := by
  unfold walkEffect
  split
  · rfl
  · split
    · rfl
    · simp [State.dropHolding]
@[simp] theorem walkEffect_resetPin (w : Walk) (s : State) : (walkEffect w s).1.resetPin = s.resetPin := by
  unfold walkEffect
  split
  · rfl
  · split
    · rfl
    · simp [State.dropHolding]
@[simp] theorem walkEffect_dataPins (w : Walk) (s : State) : (walkEffect w s).1.dataPins = s.dataPins := by
  unfold walkEffect
  split
  · rfl
  · split
    · rfl
    · simp [State.dropHolding]
@[simp] theorem walkEffect_pending (w : Walk) (s : State) : (walkEffect w s).1.pending = s.pending := by
  unfold walkEffect
  split
  · rfl
  · split
    · rfl
    · simp [State.dropHolding]

theorem walkEffect_same (w : Walk) (s : State) (b : StationId) : SameButNotices (s.ctx b) ((walkEffect w s).1.ctx b) := by
  unfold walkEffect
  split
  · exact .refl _
  · split
    · exact .refl _
    · exact State.settle_same (s.dropHolding _ _ _) _ b

@[simp] theorem walkEffect_kind (w : Walk) (s : State) : (walkEffect w s).2.kind = w.kind := by
  unfold walkEffect; split <;> [rfl; (split <;> rfl)]
@[simp] theorem walkEffect_target (w : Walk) (s : State) : (walkEffect w s).2.target = w.target := by
  unfold walkEffect; split <;> [rfl; (split <;> rfl)]
@[simp] theorem walkEffect_position (w : Walk) (s : State) : (walkEffect w s).2.position = w.position := by
  unfold walkEffect; split <;> [rfl; (split <;> rfl)]

end Sys2Proof.Machine
end

