-- ==== Sys2Proof/Laws/Tick.lean ====
section
/-!
SUPPORT. What the lease tick does at one slot and over the whole table, said once.
-/

namespace Sys2Proof.Machine

@[simp] theorem State.lowerExpired_defaults (s : State) (r : Record) : (s.lowerExpired r).defaults = s.defaults :=
  foldl_keeps _ (·.defaults) (by simp) _ s
@[simp] theorem State.lowerExpired_lease (s : State) (r : Record) : (s.lowerExpired r).lease = s.lease :=
  foldl_keeps _ (·.lease) (by simp) _ s
@[simp] theorem State.lowerExpired_standingCount (s : State) (r : Record) : (s.lowerExpired r).standingCount = s.standingCount :=
  foldl_keeps _ (·.standingCount) (by simp) _ s
@[simp] theorem State.lowerExpired_turnPointer (s : State) (r : Record) : (s.lowerExpired r).turnPointer = s.turnPointer :=
  foldl_keeps _ (·.turnPointer) (by simp) _ s
@[simp] theorem State.lowerExpired_resetPin (s : State) (r : Record) : (s.lowerExpired r).resetPin = s.resetPin :=
  foldl_keeps _ (·.resetPin) (by simp) _ s
@[simp] theorem State.lowerExpired_dataPins (s : State) (r : Record) : (s.lowerExpired r).dataPins = s.dataPins :=
  foldl_keeps _ (·.dataPins) (by simp) _ s
@[simp] theorem State.lowerExpired_pending (s : State) (r : Record) : (s.lowerExpired r).pending = s.pending :=
  foldl_keeps _ (·.pending) (by simp) _ s
@[simp] theorem State.lowerExpired_slots (s : State) (r : Record) : (s.lowerExpired r).slots = s.slots :=
  foldl_keeps _ (·.slots) (by simp) _ s
@[simp] theorem State.lowerExpired_stations (s : State) (r : Record) : (s.lowerExpired r).stations = s.stations :=
  foldl_keeps _ (·.stations) (by simp) _ s

/-- The state a tick leaves at a slot before the grant rule runs there. -/
def tickChanged (s : State) (i : SlotId) (r : Record) : State :=
  (((s.queueNotices (r.holdingNotices (s.leaseClass r.attrs.leaseClass).warn)).setRecord i (some r.ticked)).lowerExpired
    r).queueNotices r.waiterNotices

theorem State.tickSlot_none (s : State) (i : SlotId) (h : s.record i = none) : s.tickSlot i = s := by
  unfold State.tickSlot; rw [h]

theorem State.tickSlot_some (s : State) (i : SlotId) (r : Record) (h : s.record i = some r) :
    s.tickSlot i = if r.tickRemoves = true then (tickChanged s i r).settle i else tickChanged s i r := by
  unfold State.tickSlot; rw [h]; rfl

@[simp] theorem tickChanged_defaults (s : State) (i : SlotId) (r : Record) : (tickChanged s i r).defaults = s.defaults := by
  simp [tickChanged]
@[simp] theorem State.tickSlot_defaults (s : State) (i : SlotId) : (s.tickSlot i).defaults = s.defaults := by
  cases h : s.record i with
  | none => rw [s.tickSlot_none i h]
  | some r => rw [s.tickSlot_some i r h]; split <;> simp
@[simp] theorem State.tickTable_defaults (s : State) : s.tickTable.defaults = s.defaults := foldl_keeps _ (·.defaults) (by simp) _ s
@[simp] theorem tickChanged_lease (s : State) (i : SlotId) (r : Record) : (tickChanged s i r).lease = s.lease := by
  simp [tickChanged]
@[simp] theorem State.tickSlot_lease (s : State) (i : SlotId) : (s.tickSlot i).lease = s.lease := by
  cases h : s.record i with
  | none => rw [s.tickSlot_none i h]
  | some r => rw [s.tickSlot_some i r h]; split <;> simp
@[simp] theorem State.tickTable_lease (s : State) : s.tickTable.lease = s.lease := foldl_keeps _ (·.lease) (by simp) _ s
@[simp] theorem tickChanged_standingCount (s : State) (i : SlotId) (r : Record) : (tickChanged s i r).standingCount = s.standingCount := by
  simp [tickChanged]
@[simp] theorem State.tickSlot_standingCount (s : State) (i : SlotId) : (s.tickSlot i).standingCount = s.standingCount := by
  cases h : s.record i with
  | none => rw [s.tickSlot_none i h]
  | some r => rw [s.tickSlot_some i r h]; split <;> simp
@[simp] theorem State.tickTable_standingCount (s : State) : s.tickTable.standingCount = s.standingCount := foldl_keeps _ (·.standingCount) (by simp) _ s
@[simp] theorem tickChanged_turnPointer (s : State) (i : SlotId) (r : Record) : (tickChanged s i r).turnPointer = s.turnPointer := by
  simp [tickChanged]
@[simp] theorem State.tickSlot_turnPointer (s : State) (i : SlotId) : (s.tickSlot i).turnPointer = s.turnPointer := by
  cases h : s.record i with
  | none => rw [s.tickSlot_none i h]
  | some r => rw [s.tickSlot_some i r h]; split <;> simp
@[simp] theorem State.tickTable_turnPointer (s : State) : s.tickTable.turnPointer = s.turnPointer := foldl_keeps _ (·.turnPointer) (by simp) _ s
@[simp] theorem tickChanged_resetPin (s : State) (i : SlotId) (r : Record) : (tickChanged s i r).resetPin = s.resetPin := by
  simp [tickChanged]
@[simp] theorem State.tickSlot_resetPin (s : State) (i : SlotId) : (s.tickSlot i).resetPin = s.resetPin := by
  cases h : s.record i with
  | none => rw [s.tickSlot_none i h]
  | some r => rw [s.tickSlot_some i r h]; split <;> simp
@[simp] theorem State.tickTable_resetPin (s : State) : s.tickTable.resetPin = s.resetPin := foldl_keeps _ (·.resetPin) (by simp) _ s
@[simp] theorem tickChanged_dataPins (s : State) (i : SlotId) (r : Record) : (tickChanged s i r).dataPins = s.dataPins := by
  simp [tickChanged]
@[simp] theorem State.tickSlot_dataPins (s : State) (i : SlotId) : (s.tickSlot i).dataPins = s.dataPins := by
  cases h : s.record i with
  | none => rw [s.tickSlot_none i h]
  | some r => rw [s.tickSlot_some i r h]; split <;> simp
@[simp] theorem State.tickTable_dataPins (s : State) : s.tickTable.dataPins = s.dataPins := foldl_keeps _ (·.dataPins) (by simp) _ s
@[simp] theorem tickChanged_pending (s : State) (i : SlotId) (r : Record) : (tickChanged s i r).pending = s.pending := by
  simp [tickChanged]
@[simp] theorem State.tickSlot_pending (s : State) (i : SlotId) : (s.tickSlot i).pending = s.pending := by
  cases h : s.record i with
  | none => rw [s.tickSlot_none i h]
  | some r => rw [s.tickSlot_some i r h]; split <;> simp
@[simp] theorem State.tickTable_pending (s : State) : s.tickTable.pending = s.pending := foldl_keeps _ (·.pending) (by simp) _ s

theorem tickChanged_slots (s : State) (i : SlotId) (r : Record) :
    (tickChanged s i r).slots = (s.setRecord i (some r.ticked)).slots := by
  simp [tickChanged]

theorem tickChanged_same (s : State) (i : SlotId) (r : Record) (b : StationId) :
    SameButNotices (s.ctx b) ((tickChanged s i r).ctx b) := by
  have h1 := State.queueNotices_same s (r.holdingNotices (s.leaseClass r.attrs.leaseClass).warn) b
  have h2 := State.queueNotices_same
    (((s.queueNotices (r.holdingNotices (s.leaseClass r.attrs.leaseClass).warn)).setRecord i (some r.ticked)).lowerExpired r)
    r.waiterNotices b
  refine h1.trans (SameButNotices.trans (SameButNotices.trans ?_ (.refl _)) h2)
  unfold State.ctx
  rw [State.lowerExpired_stations]
  exact .refl _

theorem State.tickSlot_same (s : State) (i : SlotId) (b : StationId) : SameButNotices (s.ctx b) ((s.tickSlot i).ctx b) := by
  cases h : s.record i with
  | none => rw [s.tickSlot_none i h]; exact .refl _
  | some r =>
    rw [s.tickSlot_some i r h]
    split
    · exact (tickChanged_same s i r b).trans (State.settle_same _ i b)
    · exact tickChanged_same s i r b

theorem State.tickTable_same (s : State) (b : StationId) : SameButNotices (s.ctx b) (s.tickTable.ctx b) :=
  foldl_sameButNotices _ b (fun s i => s.tickSlot_same i b) _ s

/-- The tick at one slot leaves every other slot. -/
theorem State.record_tickSlot_ne (s : State) (i j : SlotId) (h : j ≠ i) : (s.tickSlot i).record j = s.record j := by
  cases hr : s.record i with
  | none => rw [s.tickSlot_none i hr]
  | some r =>
    have hc : (tickChanged s i r).record j = s.record j := by
      unfold State.record
      rw [tickChanged_slots]
      exact s.record_setRecord_ne i j _ h
    rw [s.tickSlot_some i r hr]
    split
    · rw [State.record_settle_ne _ i j h, hc]
    · exact hc

/-- The record the tick leaves in a slot before the grant rule. -/
theorem record_tickChanged (s : State) (i : SlotId) (r : Record) : (tickChanged s i r).record i = some r.ticked := by
  unfold State.record
  rw [tickChanged_slots]
  exact s.record_setRecord_same i _

theorem State.leaseClass_eq_of_lease {s t : State} (h : t.lease = s.lease) (k : ClassId) : t.leaseClass k = s.leaseClass k := by
  unfold State.leaseClass; rw [h]

theorem State.classLease_eq_of_lease {s t : State} (h : t.lease = s.lease) (k : ClassId) : t.classLease k = s.classLease k := by
  unfold State.classLease; rw [State.leaseClass_eq_of_lease h]

/-- What the tick makes of the record of a slot depends on that record and on the lease classes alone. -/
def Record.afterTick (r : Record) (full : Option Nat) : Option Record :=
  if r.tickRemoves = true then
    let x := (grantRun full r.ticked.queue r.ticked).1
    if x.retires = true then none else some x
  else some r.ticked

theorem State.record_tickSlot (s : State) (i : SlotId) :
    (s.tickSlot i).record i = (s.record i).bind fun r => r.afterTick (s.classLease r.attrs.leaseClass) := by
  cases hr : s.record i with
  | none => rw [s.tickSlot_none i hr, hr]; rfl
  | some r =>
    rw [s.tickSlot_some i r hr]
    have hc := record_tickChanged s i r
    simp only [Option.bind_some]
    unfold Record.afterTick
    split
    · have hx : (settleRun (tickChanged s i r) r.ticked).1 =
          (grantRun (s.classLease r.attrs.leaseClass) r.ticked.queue r.ticked).1 := by
        unfold settleRun
        rw [State.classLease_eq_of_lease (tickChanged_lease s i r)]
        rfl
      have h2 := (tickChanged s i r).record_settle i r.ticked hc
      rw [hx] at h2
      by_cases ht : (grantRun (s.classLease r.attrs.leaseClass) r.ticked.queue r.ticked).1.ToRetire
      · rw [h2.1 ht]
        simp [(Record.retires_iff _).mpr ht]
      · rw [h2.2 ht]
        have : (grantRun (s.classLease r.attrs.leaseClass) r.ticked.queue r.ticked).1.retires = false := by
          simpa using fun e => ht ((Record.retires_iff _).mp e)
        simp [this]
    · exact hc

/-- A run of ticks over slots that do not name a slot leaves it. -/
theorem record_foldl_tickSlot_ne (l : List SlotId) (s : State) (i : SlotId) (h : i ∉ l) :
    (l.foldl State.tickSlot s).record i = s.record i := by
  induction l generalizing s with
  | nil => rfl
  | cons j js ih =>
    rw [List.foldl_cons, ih _ (fun hm => h (List.mem_cons_of_mem _ hm))]
    exact s.record_tickSlot_ne j i (fun e => h (e ▸ List.mem_cons_self))

theorem foldl_tickSlot_lease (l : List SlotId) (s : State) : (l.foldl State.tickSlot s).lease = s.lease :=
  foldl_keeps _ (·.lease) (by simp) l s

/-- The whole tick, read at one slot (R73). -/
theorem State.record_tickTable (s : State) (i : SlotId) :
    s.tickTable.record i = (s.record i).bind fun r => r.afterTick (s.classLease r.attrs.leaseClass) := by
  obtain ⟨l₁, l₂, hl⟩ := List.append_of_mem (mem_allSlots i)
  have hn : (allSlots).Nodup := List.nodup_finRange 64
  rw [hl] at hn
  have h1 : i ∉ l₁ := fun hm => (List.disjoint_of_nodup_append hn hm List.mem_cons_self)
  have h2 : i ∉ l₂ := (List.nodup_cons.mp (List.nodup_append.mp hn).2.1).1
  unfold State.tickTable
  rw [hl, List.foldl_append, List.foldl_cons, record_foldl_tickSlot_ne l₂ _ i h2, State.record_tickSlot,
    record_foldl_tickSlot_ne l₁ s i h1]
  simp only [State.classLease_eq_of_lease (foldl_tickSlot_lease l₁ s)]

/-! ### The ticked record -/

@[simp] theorem Record.ticked_name (r : Record) : r.ticked.name = r.name := rfl
@[simp] theorem Record.ticked_kind (r : Record) : r.ticked.kind = r.kind := rfl
@[simp] theorem Record.ticked_attrs (r : Record) : r.ticked.attrs = r.attrs := rfl
@[simp] theorem Record.ticked_queue (r : Record) : r.ticked.queue = r.tickedQueue := rfl
@[simp] theorem Record.ticked_taint (r : Record) : r.ticked.taint = r.tickedTaint := rfl
@[simp] theorem Record.holding_ticked (r : Record) (a : StationId) : r.ticked.holding a = (r.holding a).bind Holding.ticked :=
  r.holding_mapHoldings (fun _ h => h.ticked) a

/-- A record after the tick keeps its name, kind and attributes. -/
theorem Record.afterTick_attrs (r r' : Record) (full : Option Nat) (h : r.afterTick full = some r') :
    r'.name = r.name ∧ r'.kind = r.kind ∧ r'.attrs = r.attrs := by
  unfold Record.afterTick at h
  split at h
  · simp only at h
    split at h
    · exact absurd h (by simp)
    · obtain rfl := Option.some.inj h
      have hs := grantRun_spec full r.ticked.queue r.ticked
      exact ⟨hs.name, hs.kind, hs.attrs⟩
  · obtain rfl := Option.some.inj h
    exact ⟨rfl, rfl, rfl⟩

/-! ### The tick in the words of the statements -/

theorem Holding.expires_iff (h : Holding) : h.expires = true ↔ ∃ n ∈ h.lease, n ≤ 1 := by
  unfold Holding.expires
  cases h.lease <;> simp

theorem Record.expiresAt_iff (r : Record) (a : StationId) : r.expiresAt a = true ↔ r.Expiring a := by
  unfold Record.expiresAt Record.Expiring
  cases r.holding a <;> simp [Holding.expires_iff]

theorem Record.endedNotice_eq (r : Record) (w : Waiter) : r.endedNotice w = r.waiterEnd w := by
  unfold Record.endedNotice Record.waiterEnd
  simp only [Record.expiresAt_iff]
  split
  · rename_i h
    rw [h.1]
    rfl
  · unfold timedOutDetail Deadline.expires
    cases w.deadline with
    | unlimited => rfl
    | ticks n =>
      simp only [decide_eq_true_eq]
      split
      · cases w.request <;> rfl
      · rfl

theorem Record.tickRemoves_iff (r : Record) : r.tickRemoves = true ↔ r.TickEnds := by
  unfold Record.tickRemoves Record.TickEnds
  simp only [Bool.or_eq_true, List.any_eq_true, mem_allStations, true_and, Record.expiresAt_iff, r.endedNotice_eq,
    Option.isSome_iff_ne_none]

theorem Record.heldNotices_eq (r : Record) (warn : Byte) : r.heldNotices warn = r.holdingNotices warn := by
  unfold Record.heldNotices Record.holdingNotices
  refine congrArg (fun f => List.filterMap f allStations) (funext fun a => ?_)
  cases r.holding a with
  | none => rfl
  | some h =>
    simp only [Option.bind_some]
    unfold Holding.tickNotice
    cases h.lease with
    | none => rfl
    | some n =>
      by_cases h1 : n ≤ 1
      · simp only [h1, if_true, Option.map_some]
        cases h.mode <;> rfl
      · by_cases h2 : n = warn.toNat + 1
        · subst h2
          simp [h1, byteOf]
        · have : ¬ n - 1 = warn.toNat := by omega
          simp [h1, h2, this]

theorem Record.countedDown_eq (r : Record) : r.countedDown = r.ticked := by
  refine Record.ext_holding _ _ rfl rfl rfl (fun a => ?_) ?_ ?_
  · rw [Record.holding_ticked]
    show (r.holders.map _)[a] = _
    simp only [Fin.getElem_fin, Vector.getElem_map]
    show Option.bind (r.holding a) _ = _
    refine congrArg _ (funext fun h => ?_)
    unfold Holding.ticked Holding.expires
    cases e : h.lease with
    | none => cases h; simp_all
    | some n => simp
  · show List.filterMap _ r.queue = r.tickedQueue
    unfold Record.tickedQueue
    refine congrArg (fun f => List.filterMap f r.queue) (funext fun w => ?_)
    rw [r.endedNotice_eq]
    cases r.waiterEnd w with
    | some n => rfl
    | none => cases w.deadline <;> simp [Deadline.ticked]
  · show _ = r.tickedTaint
    unfold Record.countedDown Record.tickedTaint
    have : (fun a => decide (r.Expiring a ∧ ∃ h ∈ r.holding a, h.mode = .exclusive)) =
        fun st => (r.holding st).any fun h => h.expires && h.mode == .exclusive := by
      funext a
      rw [Bool.eq_iff_iff, decide_eq_true_iff]
      unfold Record.Expiring
      cases r.holding a <;> simp [Holding.expires_iff]
    exact congrArg (fun f => match List.find? f allStations with | some a => some a | none => r.taint) this

theorem State.lowerExpired_holdingCount (s : State) (r : Record) (a : StationId) :
    (s.lowerExpired r).holdingCount a = s.holdingCount a - if r.Expiring a then 1 else 0 := by
  have key (l : List StationId) (hn : l.Nodup) (s : State) :
      (l.foldl State.lowerCount s).holdingCount a = s.holdingCount a - if a ∈ l then 1 else 0 := by
    induction l generalizing s with
    | nil => simp
    | cons b bs ih =>
      rw [List.foldl_cons, ih (List.nodup_cons.mp hn).2, State.lowerCount, State.holdingCount_setCount]
      by_cases h : a = b
      · subst h
        simp [(List.nodup_cons.mp hn).1]
      · simp [h]
  unfold State.lowerExpired
  rw [key (allStations.filter fun st => r.expiresAt st) ((List.nodup_finRange 8).filter _)]
  simp [Record.expiresAt_iff, mem_allStations]

theorem State.lowerExpired_eq (s : State) (r : Record) :
    s.lowerExpired r = { s with holdingCounts := Vector.ofFn fun a => (s.lowerExpired r).holdingCount a } := by
  have h : s.lowerExpired r = { s with holdingCounts := (s.lowerExpired r).holdingCounts } :=
    foldl_holds State.lowerCount (fun u => u = { s with holdingCounts := u.holdingCounts })
      (fun u a hu => by rw [hu]; rfl) _ s rfl
  have hv : (s.lowerExpired r).holdingCounts = Vector.ofFn fun a => (s.lowerExpired r).holdingCount a := by
    ext k hk
    simp [State.holdingCount]
  rw [← hv]
  exact h

/-- The tick at a slot is what the rules give it. -/
theorem State.tickAt_eq (s : State) (i : SlotId) : s.tickAt i = s.tickSlot i := by
  unfold State.tickAt State.tickSlot
  cases hr : s.record i with
  | none => rfl
  | some r =>
    simp only [r.heldNotices_eq, r.countedDown_eq, ← r.tickRemoves_iff]
    generalize hj : List.foldl _ s (r.holdingNotices _) = judged
    have hj' : s.queueNotices (r.holdingNotices (s.leaseClass r.attrs.leaseClass).warn) = judged := hj
    have hc : ({ judged with
          slots := judged.slots.set i (some r.ticked)
          holdingCounts := Vector.ofFn fun a => judged.holdingCount a - if r.Expiring a then 1 else 0 } : State) =
        (judged.setRecord i (some r.ticked)).lowerExpired r := by
      rw [State.lowerExpired_eq]
      simp only [State.lowerExpired_holdingCount]
      rfl
    have hw (u : State) : r.queue.foldl (State.tellEnded r) u = u.queueNotices r.waiterNotices := by
      unfold State.queueNotices Record.waiterNotices
      rw [List.foldl_filterMap]
      refine congrArg (fun f => List.foldl f u r.queue) (funext fun v => funext fun w => ?_)
      unfold State.tellEnded
      rw [r.endedNotice_eq]
      cases r.waiterEnd w <;> rfl
    rw [hc, hw, hj']

/-- What the whole tick leaves in a slot that held a record (R57, R73). -/
theorem State.tickTable_leaves (s : State) (i : SlotId) (r : Record) (h : s.record i = some r) :
    s.TickLeaves s.tickTable i r := by
  have ht := s.record_tickTable i
  rw [h, Option.bind_some] at ht
  unfold State.TickLeaves
  rw [ht, ← r.tickRemoves_iff, r.countedDown_eq]
  unfold Record.afterTick
  refine ⟨fun hn => by rw [if_neg hn], fun hy => ?_⟩
  rw [if_pos hy]
  have hs := grantRun_spec (s.classLease r.attrs.leaseClass) r.ticked.queue r.ticked
  exact ⟨_, _, hs, fun hr => if_pos ((Record.retires_iff _).mpr hr), fun hr => if_neg (mt (Record.retires_iff _).mp hr)⟩

/-! ### What a tick does to a notice queue: it grows at its tail -/

/-- A queue has only grown at its tail, and NOTICE LOST, where set, is still set. -/
def Grown (x y : Station) : Prop := (∃ new, y.notices = x.notices ++ new) ∧ (x.noticeLost = true → y.noticeLost = true)

theorem Grown.refl (x : Station) : Grown x x := ⟨⟨[], by simp⟩, id⟩

theorem Grown.trans {x y z : Station} (h : Grown x y) (k : Grown y z) : Grown x z := by
  obtain ⟨⟨m, hm⟩, hl⟩ := h
  obtain ⟨⟨n, hn⟩, kl⟩ := k
  exact ⟨⟨m ++ n, by rw [hn, hm, List.append_assoc]⟩, kl ∘ hl⟩

theorem State.queueNotice_grown (s : State) (a b : StationId) (n : Notice) : Grown (s.ctx b) ((s.queueNotice a n).ctx b) := by
  by_cases hb : b = a
  · subst hb
    unfold State.queueNotice
    split
    · split
      · exact ⟨⟨[n], by simp [State.pushNotice]⟩, by simp [State.pushNotice]⟩
      · exact ⟨⟨[], by simp⟩, by simp⟩
    · exact .refl _
  · rw [State.ctx_queueNotice_ne s a b n hb]
    exact .refl _

theorem foldl_grown {α : Type} (f : State → α → State) (b : StationId) (hf : ∀ s x, Grown (s.ctx b) ((f s x).ctx b))
    (l : List α) (s : State) : Grown (s.ctx b) ((l.foldl f s).ctx b) :=
  foldl_holds f (fun u => Grown (s.ctx b) (u.ctx b)) (fun u x hu => hu.trans (hf u x)) l s (.refl _)

theorem State.queueNotices_grown (s : State) (ns : List (StationId × Notice)) (b : StationId) :
    Grown (s.ctx b) ((s.queueNotices ns).ctx b) :=
  foldl_grown (fun (s : State) (x : StationId × Notice) => s.queueNotice x.1 x.2) b
    (fun s x => s.queueNotice_grown x.1 b x.2) ns s

theorem State.announceGrant_grown (r : Record) (s : State) (w : Waiter) (b : StationId) :
    Grown (s.ctx b) ((s.announceGrant r w).ctx b) := by
  unfold State.announceGrant
  split
  · exact s.queueNotice_grown _ b _
  · exact (s.raiseCount w.station).queueNotice_grown _ b _

theorem State.settle_grown (s : State) (i : SlotId) (b : StationId) : Grown (s.ctx b) ((s.settle i).ctx b) := by
  have hr (u : State) : (u.retirementTest i).ctx b = u.ctx b := by
    unfold State.retirementTest
    split
    · split <;> rfl
    · rfl
  unfold State.settle
  split
  · exact .refl _
  · rw [hr]
    exact foldl_grown (State.announceGrant _) b (fun s w => s.announceGrant_grown _ w b) _ (s.setRecord i _)

theorem tickChanged_grown (s : State) (i : SlotId) (r : Record) (b : StationId) :
    Grown (s.ctx b) ((tickChanged s i r).ctx b) := by
  have h1 := s.queueNotices_grown (r.holdingNotices (s.leaseClass r.attrs.leaseClass).warn) b
  have h2 := State.queueNotices_grown
    (((s.queueNotices (r.holdingNotices (s.leaseClass r.attrs.leaseClass).warn)).setRecord i (some r.ticked)).lowerExpired r)
    r.waiterNotices b
  refine h1.trans (Grown.trans ?_ h2)
  unfold State.ctx
  rw [State.lowerExpired_stations]
  exact .refl _

theorem State.tickSlot_grown (s : State) (i : SlotId) (b : StationId) : Grown (s.ctx b) ((s.tickSlot i).ctx b) := by
  cases h : s.record i with
  | none => rw [s.tickSlot_none i h]; exact .refl _
  | some r =>
    rw [s.tickSlot_some i r h]
    split
    · exact (tickChanged_grown s i r b).trans (State.settle_grown _ i b)
    · exact tickChanged_grown s i r b

/-- A notice that enters, or is discarded with NOTICE LOST, is still there, or the loss with it, when the queue has grown. -/
theorem State.EntersOrLost.grown {s u t : State} {a : StationId} {n : Notice} (h : s.EntersOrLost u a n)
    (k : Grown (u.ctx a) (t.ctx a)) : s.EntersOrLost t a n := by
  obtain ⟨⟨m, hm⟩, hl⟩ := k
  rcases h with ⟨new, e, hn⟩ | ⟨h1, h2⟩
  · exact .inl ⟨new ++ m, by rw [hm, e, List.append_assoc], List.mem_append_left _ hn⟩
  · exact .inr ⟨hl h1, by rw [hm, List.length_append]; omega⟩

theorem State.EntersOrLost.after {s u t : State} {a : StationId} {n : Notice} (k : Grown (s.ctx a) (u.ctx a))
    (h : u.EntersOrLost t a n) : s.EntersOrLost t a n := by
  obtain ⟨⟨m, hm⟩, _⟩ := k
  rcases h with ⟨new, e, hn⟩ | h
  · exact .inl ⟨m ++ new, by rw [e, hm, List.append_assoc], List.mem_append_right _ hn⟩
  · exact .inr h

/-- A notice for an ONLINE station enters behind those that stand in its queue, or finds it full (R134). -/
theorem State.queueNotice_entersOrLost (s : State) (a : StationId) (n : Notice) (ho : s.online a = true) :
    s.EntersOrLost (s.queueNotice a n) a n := by
  unfold State.queueNotice
  rw [if_pos ho]
  split
  · exact .inl ⟨[n], by simp [State.pushNotice], by simp⟩
  · rename_i h
    refine .inr ⟨by simp, ?_⟩
    simp only [Bool.or_eq_true, decide_eq_true_eq, not_or, not_lt] at h
    have := h.2
    unfold State.noticeRoom Config.noticeCapacity at this
    simp only [State.ctx_modifyCtx_same]
    split at this <;> omega

/-- Each of several notices that come to enter for ONLINE stations enters or finds its queue full. -/
theorem State.queueNotices_entersOrLost (s : State) (ns : List (StationId × Notice)) (a : StationId) (n : Notice)
    (hm : (a, n) ∈ ns) (ho : s.online a = true) : s.EntersOrLost (s.queueNotices ns) a n := by
  induction ns generalizing s with
  | nil => simp at hm
  | cons x xs ih =>
    rcases List.mem_cons.mp hm with rfl | hm
    · exact (s.queueNotice_entersOrLost a n ho).grown (State.queueNotices_grown _ xs a)
    · exact (ih (s.queueNotice x.1 x.2) hm (by simpa using ho)).after (s.queueNotice_grown x.1 a x.2)

/-- The whole tick, from the slot of a record on: what is so at that slot's own tick of the notices that enter for a station, is
so of the whole tick. -/
theorem State.tickTable_split (s : State) (i : SlotId) : ∃ u v : State, u.record i = s.record i ∧ u.lease = s.lease
    ∧ (∀ a, Grown (s.ctx a) (u.ctx a)) ∧ (∀ a, SameButNotices (s.ctx a) (u.ctx a))
    ∧ v = u.tickSlot i ∧ ∀ a, Grown (v.ctx a) (s.tickTable.ctx a) := by
  obtain ⟨l₁, l₂, hl⟩ := List.append_of_mem (mem_allSlots i)
  have hn : (allSlots).Nodup := List.nodup_finRange 64
  rw [hl] at hn
  have h1 : i ∉ l₁ := fun hm => (List.disjoint_of_nodup_append hn hm List.mem_cons_self)
  refine ⟨l₁.foldl State.tickSlot s, _, record_foldl_tickSlot_ne l₁ s i h1, foldl_tickSlot_lease l₁ s,
    fun a => foldl_grown State.tickSlot a (fun s j => s.tickSlot_grown j a) l₁ s,
    fun a => foldl_sameButNotices State.tickSlot a (fun s j => s.tickSlot_same j a) l₁ s, rfl, fun a => ?_⟩
  unfold State.tickTable
  rw [hl, List.foldl_append, List.foldl_cons]
  exact foldl_grown State.tickSlot a (fun s j => s.tickSlot_grown j a) l₂ _

end Sys2Proof.Machine
end

