-- ==== Sys2Proof/Laws/Turns.lean ====
section
/-!
SUPPORT. What a turn of the engine does, said once: a turn that is due, one that is refused before the command's own checks,
and one that is not due; and what each command's turn answers when it is due.
-/

namespace Sys2Proof.Machine

theorem unlessReset_low (s : State) (f : State → State) (h : s.resetPin = false) : unlessReset s f = .next (f s) := by
  simp [unlessReset, h]

theorem unlessReset_high (s : State) (f : State → State) (h : s.resetPin = true) : unlessReset s f = .next s := by
  simp [unlessReset, h]

/-- A command that is not under RESET always answers a next state. -/
theorem unlessReset_next (s : State) (f : State → State) : unlessReset s f = .next (if s.resetPin then s else f s) := rfl

theorem State.pendingTurn_eq_some (s : State) (st : StationId) (c : Captured) :
    s.pendingTurn st = some c ↔ s.arbiter = some st ∧ (s.ctx st).slot = .pending c := by
  unfold State.pendingTurn
  split
  · rename_i ha
    cases hs : (s.ctx st).slot <;> simp [ha]
  · rename_i ha
    simp [ha]

theorem State.walkTurn_eq_some (s : State) (st : StationId) (c : Captured) (w : Walk) :
    s.walkTurn st = some (c, w) ↔ s.arbiter = some st ∧ (s.ctx st).slot = .executing c w := by
  unfold State.walkTurn
  split
  · rename_i ha
    cases hs : (s.ctx st).slot <;> simp [ha]
  · rename_i ha
    simp [ha]

/-- No check before the command's own refuses a command that is due (R120). -/
theorem Due.entryRefusal {s : State} {st : StationId} {c : Captured} {cmd : Command} (h : Due s st c cmd) :
    s.entryRefusal st cmd = none := by
  obtain ⟨-, -, -, ho, hp⟩ := h
  unfold State.entryRefusal
  rw [if_neg, if_neg]
  · rintro ⟨h1, h2⟩
    rcases hp with hp | hp
    · rw [hp] at h1; exact absurd h1 (by simp)
    · exact h2 hp
  · rintro ⟨h1, h2⟩
    rcases ho with ho | ho
    · exact h1 ho
    · rw [ho] at h2; exact absurd h2 (by simp)

theorem Due.reset {s : State} {st : StationId} {c : Captured} {cmd : Command} (h : Due s st c cmd) : s.resetPin = false := h.1
theorem Due.pending {s : State} {st : StationId} {c : Captured} {cmd : Command} (h : Due s st c cmd) :
    s.pendingTurn st = some c := h.2.1
theorem Due.command {s : State} {st : StationId} {c : Captured} {cmd : Command} (h : Due s st c cmd) :
    c.command = some cmd := h.2.2.1

/-- The turn of a command that is due is its own work. -/
theorem commandTurn_due {s : State} {st : StationId} {c : Captured} {cmd : Command} (h : Due s st c cmd)
    (mine : Captured → Bool) (hm : mine c = true) (own : Captured → State → State) :
    commandTurn st cmd mine own s = (own c s).endTurn st := by
  simp [commandTurn, h.pending, h.command, hm, h.entryRefusal]

/-- The turn of an ordinary command that is due posts its result. -/
theorem ordinaryTurn_due {s : State} {st : StationId} {c : Captured} {cmd : Command} (h : Due s st c cmd)
    (mine : Captured → Bool) (hm : mine c = true) (own : Captured → State → State × Result) :
    unlessReset s (ordinaryTurn st cmd mine own) = posted (own c s).1 st (own c s).2 := by
  rw [unlessReset_low _ _ h.reset]
  unfold ordinaryTurn
  rw [commandTurn_due h mine hm]
  rfl

/-- A refusal before the command's own checks posts its code and changes nothing else (R120). -/
theorem commandTurn_refused {s : State} {st : StationId} {c : Captured} {cmd : Command} {code : ResultCode}
    (hp : s.pendingTurn st = some c) (hc : c.command = some cmd) (hr : s.entryRefusal st cmd = some code)
    (mine : Captured → Bool) (hm : mine c = true) (own : Captured → State → State) :
    commandTurn st cmd mine own s = (s.complete st ⟨code, 0, 0, 0, 0⟩).endTurn st := by
  simp [commandTurn, hp, hc, hm, hr, Result.bare]

/-- A turn that is not due changes nothing. -/
theorem commandTurn_notDue {s : State} {st : StationId} {cmd : Command} (mine : Captured → Bool)
    (own : Captured → State → State) (h : ∀ c, s.pendingTurn st = some c → c.command = some cmd → mine c = false) :
    commandTurn st cmd mine own s = s := by
  unfold commandTurn
  cases hp : s.pendingTurn st with
  | none => rfl
  | some c =>
    have := h c hp
    by_cases hc : c.command = some cmd
    · simp [hc, this hc]
    · simp [hc]

/-- Every turn of a captured command is one of three: not due, refused before the command's own checks, or its own work. -/
theorem commandTurn_cases (st : StationId) (cmd : Command) (mine : Captured → Bool) (own : Captured → State → State)
    (s : State) :
    commandTurn st cmd mine own s = s
      ∨ (∃ c code, s.pendingTurn st = some c ∧ c.command = some cmd ∧ mine c = true ∧ s.entryRefusal st cmd = some code
          ∧ commandTurn st cmd mine own s = (s.complete st ⟨code, 0, 0, 0, 0⟩).endTurn st)
      ∨ ∃ c, s.pendingTurn st = some c ∧ c.command = some cmd ∧ mine c = true ∧ s.entryRefusal st cmd = none
          ∧ commandTurn st cmd mine own s = (own c s).endTurn st := by
  unfold commandTurn
  cases hp : s.pendingTurn st with
  | none => exact Or.inl rfl
  | some c =>
    by_cases hc : c.command = some cmd ∧ mine c = true
    · simp only [hc, and_self, if_true]
      cases hr : s.entryRefusal st cmd with
      | none => exact Or.inr (Or.inr ⟨c, rfl, hc.1, hc.2, rfl, rfl⟩)
      | some code => exact Or.inr (Or.inl ⟨c, code, rfl, hc.1, hc.2, rfl, rfl⟩)
    · exact Or.inl (if_neg hc)

/-! ### What each command's turn answers when it is due -/

theorem exec_attach_due {s : State} {st : StationId} {c : Captured} (h : Due s st c .attach) :
    exec (.attach st) s = posted (attachCommand st c s).1 st (attachCommand st c s).2 :=
  ordinaryTurn_due h anyOperands rfl _

theorem exec_claim_due {s : State} {st : StationId} {c : Captured} (h : Due s st c .claim) :
    exec (.claim st) s = posted (claimCommand st c s).1 st (claimCommand st c s).2 :=
  ordinaryTurn_due h anyOperands rfl _

theorem exec_release_due {s : State} {st : StationId} {c : Captured} (h : Due s st c .release) :
    exec (.release st) s = posted (releaseCommand st c s).1 st (releaseCommand st c s).2 :=
  ordinaryTurn_due h anyOperands rfl _

theorem exec_downgrade_due {s : State} {st : StationId} {c : Captured} (h : Due s st c .downgrade) :
    exec (.downgrade st) s = posted (downgradeCommand st c s).1 st (downgradeCommand st c s).2 :=
  ordinaryTurn_due h anyOperands rfl _

theorem exec_upgrade_due {s : State} {st : StationId} {c : Captured} (h : Due s st c .upgrade) :
    exec (.upgrade st) s = posted (upgradeCommand st c s).1 st (upgradeCommand st c s).2 :=
  ordinaryTurn_due h anyOperands rfl _

theorem exec_renew_due {s : State} {st : StationId} {c : Captured} (h : Due s st c .renew) :
    exec (.renew st) s = posted (renewCommand st c s).1 st (renewCommand st c s).2 :=
  ordinaryTurn_due h anyOperands rfl _

theorem exec_cancel_due {s : State} {st : StationId} {c : Captured} (h : Due s st c .cancel) :
    exec (.cancel st) s = posted (cancelCommand st c s).1 st (cancelCommand st c s).2 :=
  ordinaryTurn_due h anyOperands rfl _

theorem exec_clearTaint_due {s : State} {st : StationId} {c : Captured} (h : Due s st c .clearTaint) :
    exec (.clearTaint st) s = posted (clearTaintCommand st c s).1 st (clearTaintCommand st c s).2 :=
  ordinaryTurn_due h anyOperands rfl _

theorem exec_inspect_due {s : State} {st : StationId} {c : Captured} (h : Due s st c .inspect) :
    exec (.inspect st) s = posted (inspectCommand st c s).1 st (inspectCommand st c s).2 :=
  ordinaryTurn_due h anyOperands rfl _

theorem exec_listFirst_due {s : State} {st : StationId} {c : Captured} (h : Due s st c .listFirst) :
    exec (.listFirst st) s = posted (listFirstCommand st c s).1 st (listFirstCommand st c s).2 :=
  ordinaryTurn_due h anyOperands rfl _

theorem exec_listNext_due {s : State} {st : StationId} {c : Captured} (h : Due s st c .listNext) :
    exec (.listNext st) s = posted (listNextCommand st c s).1 st (listNextCommand st c s).2 :=
  ordinaryTurn_due h anyOperands rfl _

theorem exec_stationInfo_due {s : State} {st : StationId} {c : Captured} (h : Due s st c .stationInfo) :
    exec (.stationInfo st) s = posted (stationInfoCommand st c s).1 st (stationInfoCommand st c s).2 :=
  ordinaryTurn_due h anyOperands rfl _

theorem exec_define_due {s : State} {st : StationId} {c : Captured} (h : Due s st c .define) :
    exec (.define st) s = posted (defineCommand st c s).1 st (defineCommand st c s).2 :=
  ordinaryTurn_due h anyOperands rfl _

theorem exec_amend_due {s : State} {st : StationId} {c : Captured} (h : Due s st c .amend) :
    exec (.amend st) s = posted (amendCommand st c s).1 st (amendCommand st c s).2 :=
  ordinaryTurn_due h anyOperands rfl _

theorem exec_retire_due {s : State} {st : StationId} {c : Captured} (h : Due s st c .retire) :
    exec (.retire st) s = posted (retireCommand st c s).1 st (retireCommand st c s).2 :=
  ordinaryTurn_due h anyOperands rfl _

theorem exec_configureClass_due {s : State} {st : StationId} {c : Captured} (h : Due s st c .configure) (hm : selectsClass c = true) :
    exec (.configureClass st) s = posted (configureClassCommand st c s).1 st (configureClassCommand st c s).2 :=
  ordinaryTurn_due h selectsClass hm _

theorem exec_configurePrescaler_due {s : State} {st : StationId} {c : Captured} (h : Due s st c .configure) (hm : selectsPrescaler c = true) :
    exec (.configurePrescaler st) s = posted (configurePrescalerCommand st c s).1 st (configurePrescalerCommand st c s).2 :=
  ordinaryTurn_due h selectsPrescaler hm _

theorem exec_configureTickRun_due {s : State} {st : StationId} {c : Captured} (h : Due s st c .configure) (hm : selectsTickRun c = true) :
    exec (.configureTickRun st) s = posted (configureTickRunCommand st c s).1 st (configureTickRunCommand st c s).2 :=
  ordinaryTurn_due h selectsTickRun hm _

theorem exec_configureDefaults_due {s : State} {st : StationId} {c : Captured} (h : Due s st c .configure) (hm : selectsDefaults c = true) :
    exec (.configureDefaults st) s = posted (configureDefaultsCommand st c s).1 st (configureDefaultsCommand st c s).2 :=
  ordinaryTurn_due h selectsDefaults hm _

theorem exec_detach_due {s : State} {st : StationId} {c : Captured} (h : Due s st c .detach) :
    exec (.detach st) s = .next ((detachFirstTurn st c s).endTurn st) := by
  show unlessReset s _ = _
  rw [unlessReset_low _ _ h.reset, commandTurn_due h anyOperands rfl]

theorem exec_purge_due {s : State} {st : StationId} {c : Captured} (h : Due s st c .purge) :
    exec (.purge st) s = .next ((purgeCommand st c s).endTurn st) := by
  show unlessReset s _ = _
  rw [unlessReset_low _ _ h.reset, commandTurn_due h anyOperands rfl]

/-! ### What a posted result leaves -/

@[simp] theorem posted_eq (s : State) (st : StationId) (r : Result) :
    posted s st r = .next ((s.complete st r).endTurn st) := rfl

@[simp] theorem ctx_complete_same (s : State) (st : StationId) (r : Result) :
    (s.complete st r).ctx st = { s.ctx st with result := r, resultReady := true, slot := .empty } := by
  simp [State.complete]

theorem ctx_complete_ne (s : State) (st b : StationId) (r : Result) (h : b ≠ st) : (s.complete st r).ctx b = s.ctx b :=
  State.ctx_modifyCtx_ne s st b _ h

/-- The result window of the station after its command has completed (R123). -/
theorem posted_result (s : State) (st : StationId) (r : Result) :
    (((s.complete st r).endTurn st).ctx st).result = r := by simp

end Sys2Proof.Machine
end

