-- ==== Sys2Proof/Laws/Commands.lean ====
section
/-!
SUPPORT. The operand readers, the byte codings and the shared pieces of the commands, each characterised in the words of the
rules.
-/

namespace Sys2Proof.Machine

/-! ### A name and its one record -/

theorem State.Named.ne_zero {s : State} {n : LockName} {i : SlotId} {r : Record} (hN : s.NamesLaw) (h : s.Named n i r) :
    n ≠ 0 := by
  have := (hN i r h.1).1
  rwa [h.2] at this

theorem State.Named.not_absent {s : State} {n : LockName} {i : SlotId} {r : Record} (h : s.Named n i r) : ¬ s.Absent n :=
  fun ha => ha i r h.1 h.2

theorem State.Named.unique {s : State} {n : LockName} {i j : SlotId} {r q : Record} (hN : s.NamesLaw) (h : s.Named n i r)
    (k : s.Named n j q) : i = j ∧ r = q := by
  have e := (hN j q k.1).2 i r h.1 (h.2.trans k.2.symm)
  subst e
  exact ⟨rfl, Option.some.inj (h.1.symm.trans k.1)⟩

/-- What holds of some record of a name holds of the one record of that name. -/
theorem State.exists_named_iff {s : State} {n : LockName} {i : SlotId} {r : Record} (hN : s.NamesLaw) (h : s.Named n i r)
    (P : SlotId → Record → Prop) : (∃ j q, s.Named n j q ∧ P j q) ↔ P i r := by
  constructor
  · rintro ⟨j, q, hq, hp⟩
    obtain ⟨rfl, rfl⟩ := State.Named.unique hN h hq
    exact hp
  · exact fun hp => ⟨i, r, h, hp⟩

/-- What holds of some holding of a station under a name holds of the one there is. -/
theorem State.exists_held_iff {s : State} {n : LockName} {i : SlotId} {r : Record} {a : StationId} {h : Holding}
    (hN : s.NamesLaw) (hn : s.Named n i r) (hh : r.holding a = some h) (P : SlotId → Record → Holding → Prop) :
    (∃ j q g, s.Named n j q ∧ q.holding a = some g ∧ P j q g) ↔ P i r h := by
  constructor
  · rintro ⟨j, q, g, hq, hg, hp⟩
    obtain ⟨rfl, rfl⟩ := State.Named.unique hN hn hq
    obtain rfl := Option.some.inj (hh.symm.trans hg)
    exact hp
  · exact fun hp => ⟨i, r, h, hn, hh, hp⟩

/-! ### Operands -/

theorem Captured.claimMode_of_byte (c : Captured) (m : Mode) (h : c.s2 = m.byte) : c.claimMode = some m := by
  unfold Captured.claimMode; rw [h]; cases m <;> decide

theorem Captured.claimMode_eq_none (c : Captured) : c.claimMode = none ↔ c.s2 ≠ 0 ∧ c.s2 ≠ 1 := by
  unfold Captured.claimMode
  by_cases h0 : c.s2 = 0
  · simp [h0]
  · by_cases h1 : c.s2 = 1
    · simp [h1]
    · simp only [h0, h1, if_false, ne_eq, not_false_eq_true, and_self]

/-- Options with a bit set outside their fields are an operand error (R179). -/
theorem optionsOf_eq_none (o p : Byte) (h : 8 ≤ o.toNat) : optionsOf o p = none := by
  have key : ∀ o : Byte, 8 ≤ o.toNat → ¬ (o.extractLsb' 3 5 = 0) := by decide +kernel
  unfold optionsOf
  rw [if_neg (key o h)]

/-- The options of a class and a shared-allowed setting (R179). -/
theorem optionsOf_eq_some (o p : Byte) (k : ClassId) (shared : Bool)
    (h : o.toNat = k.val + (if shared = true then 4 else 0)) : optionsOf o p = some ⟨k, shared, p⟩ := by
  have ho : o = BitVec.ofNat 8 (k.val + (if shared = true then 4 else 0)) := by rw [← h]; simp
  have key : ∀ (k : ClassId) (b : Bool),
      (BitVec.ofNat 8 (k.val + (if b = true then 4 else 0))).extractLsb' 3 5 = 0
        ∧ ((BitVec.ofNat 8 (k.val + (if b = true then 4 else 0))).extractLsb' 0 2).toFin = k
        ∧ (BitVec.ofNat 8 (k.val + (if b = true then 4 else 0))).getLsbD 2 = b := by decide
  obtain ⟨h1, h2, h3⟩ := key k shared
  unfold optionsOf
  rw [ho, if_pos h1, h2, h3]

/-- Options below 8 are read, with shared allowed in bit 2. -/
theorem optionsOf_of_lt (o p : Byte) (h : o.toNat < 8) :
    ∃ k, optionsOf o p = some ⟨k, o.getLsbD 2, p⟩ ∧ o.toNat = k.val + (if o.getLsbD 2 = true then 4 else 0) := by
  have key : ∀ o : Byte, o.toNat < 8 → o.extractLsb' 3 5 = 0
      ∧ o.toNat = (o.extractLsb' 0 2).toFin.val + (if o.getLsbD 2 = true then 4 else 0) := by decide +kernel
  obtain ⟨h1, h2⟩ := key o h
  refine ⟨(o.extractLsb' 0 2).toFin, ?_, h2⟩
  unfold optionsOf
  rw [if_pos h1]

theorem stationOf_eq_some (b : Byte) (a : StationId) (h : b.toNat = a.val) : stationOf b = some a := by
  unfold stationOf
  rw [dif_pos (by omega)]
  simp [h]

theorem stationOf_eq_none (b : Byte) (h : 7 < b.toNat) : stationOf b = none := by
  unfold stationOf
  rw [dif_neg (by omega)]

theorem Captured.selector_class (c : Captured) (k : ClassId) (h : c.s0.toNat = k.val) :
    c.selector = some (.leaseClass k) := by
  unfold Captured.selector
  rw [dif_pos (by omega)]
  simp [h]

theorem Captured.selector_prescaler (c : Captured) (h : c.s0 = 4) : c.selector = some .prescaler := by
  unfold Captured.selector; simp [h]
theorem Captured.selector_tickRun (c : Captured) (h : c.s0 = 5) : c.selector = some .tickRun := by
  unfold Captured.selector; simp [h]
theorem Captured.selector_defaults (c : Captured) (h : c.s0 = 6) : c.selector = some .defaults := by
  unfold Captured.selector; simp [h]
theorem Captured.selector_none (c : Captured) (h : 7 ≤ c.s0.toNat) : c.selector = none := by
  unfold Captured.selector
  rw [dif_neg (by omega)]
  split <;> first | omega | rfl

/-! ### Bytes -/

/-- The lease remaining of a full load reads as the class length (R33, R75). -/
theorem leaseByte_fullLease (l : Byte) : leaseByte (fullLease l) = l := by
  unfold leaseByte fullLease byteOf
  split
  · rename_i h; simp [h]
  · simp

theorem flagByte_taint (t : Option StationId) : flagByte t.isSome = if t = none then 0 else 1 := by
  cases t <;> simp [flagByte]

/-! ### Refit, sharing guard, withdrawal -/

/-- The refit of a record is the refit of each of its holdings (R85). -/
theorem Record.refit_eq (r : Record) (l : Byte) :
    r.refit l = { r with holders := r.holders.map fun o => o.map (refitted l) } := by
  refine Record.ext_holding _ _ rfl rfl rfl (fun a => ?_) rfl rfl
  unfold Record.refit
  rw [Record.holding_mapHoldings]
  show _ = (r.holders.map _)[a]
  simp only [Fin.getElem_fin, Vector.getElem_map]
  show _ = Option.map _ (r.holding a)
  cases r.holding a with
  | none => rfl
  | some h =>
    unfold refitted refitLease
    by_cases hl : l = 0
    · simp [hl]
    · obtain ⟨d, m, c⟩ := h
      simp only [Option.bind_some, Option.map_some]
      rw [if_neg hl]
      cases c <;> rw [if_neg hl]
      simp only [Nat.min_def]

theorem Record.sharingGuard_iff (r : Record) (a : Attributes) :
    r.sharingGuard a = true ↔ a.sharedAllowed = false ∧ r.SharedUse := by
  unfold Record.sharingGuard Record.SharedUse Record.sharedHeld
  simp only [Bool.and_eq_true, Bool.not_eq_true', Bool.or_eq_true, List.any_eq_true, mem_allStations, true_and]
  refine and_congr_right fun _ => or_congr (exists_congr fun b => ?_) ?_
  · cases r.holding b <;> simp
  · simp

theorem Waiter.leftOut_iff (w : Waiter) (a : Attributes) : w.leftOut a = true ↔ w.OutsideMask a.permit := by
  unfold Waiter.leftOut Waiter.OutsideMask Attributes.permits
  simp

/-- The notice of a claim waiter that a new mask leaves out: cause PERMIT with its request (R68, R181). -/
theorem Record.permitNotice_eq (r : Record) (w : Waiter) (h : w.request ≠ .upgrade) :
    r.permitNotice w = (w.station, ⟨.withdrawn, r.name, if w.request = .shared then 4 else 5⟩) := by
  unfold Record.permitNotice withdrawnDetail WithdrawalCause.code Request.code
  cases hr : w.request with
  | shared => rfl
  | exclusive => rfl
  | upgrade => exact absurd hr h

/-! ### The end of a wait and the step of a walk -/

theorem State.OneWaitLaw.congr {s t : State} (h : t.slots = s.slots) (hs : s.OneWaitLaw) : t.OneWaitLaw := by
  intro a
  have := hs a
  unfold State.waiterEntries State.record at *
  rwa [h]

theorem dequeue_eq (r : Record) (a : StationId) :
    r.dequeue a = { r with queue := r.queue.filter fun w => decide (w.station ≠ a) } := by
  unfold Record.dequeue
  congr 2
  ext w
  simp
  rfl

/-- What a walk step does to the slot, and to the counts of the walk (R100, R107). -/
theorem walkEffect_spec (w : Walk) (s : State) :
    ∃ removed tainted, WalkStepped w.kind w.target w.position s (walkEffect w s).1 removed tainted
      ∧ (walkEffect w s).2 = { w with removed := w.removed + removed, tainted := w.tainted + tainted }
      ∧ (w.kind = .detach → tainted = 0) := by
  unfold walkEffect WalkStepped
  cases hr : s.record w.position with
  | none => exact ⟨0, 0, Or.inl ⟨by simp, rfl, rfl, rfl⟩, rfl, fun _ => rfl⟩
  | some r =>
    simp only
    cases hh : r.holding w.target with
    | none => exact ⟨0, 0, Or.inl ⟨by simp [hh], rfl, rfl, rfl⟩, rfl, fun _ => rfl⟩
    | some h =>
      simp only
      by_cases ht : w.taints h = true
      · have h2 : w.kind = .purge ∧ h.mode = .exclusive := by simpa [Walk.taints] using ht
        refine ⟨1, 1, Or.inr ⟨r, h, rfl, hh, rfl, Or.inl ⟨h2.1, h2.2, rfl, ?_⟩⟩, by simp [ht], by simp [h2.1]⟩
        simp [ht]; rfl
      · have h2 : ¬ (w.kind = .purge ∧ h.mode = .exclusive) := by simpa [Walk.taints] using ht
        refine ⟨1, 0, Or.inr ⟨r, h, rfl, hh, rfl, Or.inr ⟨h2, rfl, ?_⟩⟩, by simp [ht], by simp⟩
        simp [ht]; rfl

end Sys2Proof.Machine
end

