-- ==== Sys2Proof/WellFormed.lean ====
section
/-!
DEFINITION. Which commands are written as the opcode table's rows say: the offset operand of the two rows that
carry one lies in that row's range. The meanings are total: an ill-formed offset gets the effect R176 gives it.
-/

namespace Sys2Proof

/-- The offset is one of the unassigned offsets 22 to 31 (R177). -/
def Offset.unassigned (o : Offset) : Bool := decide (Config.firstUnassigned ≤ o.val)

/-- A write to the offset has a row of its own: MASK SET, MASK CLEAR, FAULT CAUSE, or an unassigned offset. -/
def Offset.writeHasOwnRow (o : Offset) : Bool :=
  o == Config.offMaskSet || o == Config.offMaskClear || o == Config.offFaultCause || Offset.unassigned o

/-- The operands of the command lie in its row's range. -/
def Instr.wellFormed : Instr → Bool
  | .unassignedOffset _ o _ => Offset.unassigned o
  | .windowWrite _ o _ => !(Offset.writeHasOwnRow o)
  | .attach _ | .detach _ | .detachWalkStep _ | .claim _ | .release _ | .downgrade _ | .upgrade _ | .renew _
  | .cancel _ | .clearTaint _ | .inspect _ | .listFirst _ | .listNext _ | .stationInfo _ | .define _ | .amend _
  | .retire _ | .configureClass _ | .configurePrescaler _ | .configureTickRun _ | .configureDefaults _ | .purge _
  | .purgeWalkStep _ | .badCommand _ | .leaseTick | .leaseExpiry _ _ | .waitTimeOut _ | .resultRead _
  | .statusRead _ | .noticeTake _ | .maskSet _ _ | .maskClear _ _ | .faultCauseWrite _ _ | .reset _ => true

end Sys2Proof
end

