-- ==== Sys2Proof/Tests/Slice0.lean ====
section
/-!
SUPPORT. Tests of the model: what the well-formedness check refuses, one or two turns of each command with the outcome that the
rules or the worked sequences of 11 give, and, for every obligation with hypotheses, a state that meets them all together
(at the ends of the ranges its clauses speak of).
-/

namespace Sys2Proof.Tests

open Sys2Proof.Machine

-- One proof at a time: many kernel evaluations waiting side by side ask for too much memory.
set_option Elab.async false

/-! ### Small states -/

/-- All eight stations ONLINE, everything else as after reset. -/
def up : State := { State.reset with stations := Vector.replicate 8 { Station.reset with life := .online } }

/-- A transient record that permits all stations and allows sharing. -/
def lockRecord (name : LockName) (k : ClassId) (held : List (StationId × Holding)) (queue : List Waiter) : Record where
  name := name
  kind := .transient
  attrs := ⟨k, true, 0xFF⟩
  holders := held.foldl (fun v p => v.set p.1 (some p.2)) (Vector.replicate 8 none)
  queue := queue
  taint := none

/-- All stations ONLINE, ticks RUNNING with P 0, class 3 of length 3 and warn value 1, and the records given. -/
def withTable (l : List (SlotId × Record)) : State :=
  { up with
    slots := l.foldl (fun v p => v.set p.1 (some p.2)) (Vector.replicate 64 none)
    holdingCounts := Vector.ofFn fun a => l.countP fun p => p.2.holds a
    standingCount := l.countP fun p => p.2.kind == .standing
    lease := ⟨0, 0, true, #v[⟨0, 0⟩, ⟨0, 0⟩, ⟨0, 0⟩, ⟨3, 1⟩]⟩ }

/-- A command captured with a lock name in S0 and S1. -/
def cmd (code : Byte) (n : LockName) (s2 s3 : Byte) : Captured := ⟨code, n.extractLsb' 8 8, n.extractLsb' 0 8, s2, s3⟩

/-- The station's slot holds the captured command. -/
def given (s : State) (st : StationId) (c : Captured) : State := s.modifyCtx st fun x => { x with slot := .pending c }

/-- The station's slot holds a walk. -/
def walking (s : State) (st : StationId) (w : Walk) : State :=
  s.modifyCtx st fun x => { x with slot := .executing ⟨0, 0, 0, 0, 0⟩ w }

/-- What a next state shows of itself. -/
def seen {α : Type} (f : State → α) : Answer → Option α
  | .next t => some (f t)
  | .fault _ => none
  | .refused _ => none

/-- The result a turn posts for a station. -/
def result (st : StationId) : Answer → Option Result := seen fun t => (t.ctx st).result

/-- The exclusive holding of depth 1 and its lease. -/
def excl (lease : Option Nat) : Holding := ⟨.exclusive, 1, lease⟩

/-- The shared holding of depth 1 and its lease. -/
def shar (lease : Option Nat) : Holding := ⟨.shared, 1, lease⟩

theorem seen_next {α : Type} {f : State → α} {x : α} {a : Answer} (h : seen f a = some x) :
    ∃ t, a = .next t ∧ f t = x := by
  cases a with
  | next t => exact ⟨t, rfl, Option.some.inj h⟩
  | fault r => simp [seen] at h
  | refused r => simp [seen] at h

/-! ### Well-formedness -/

theorem test_wellFormed_unassignedOffset_refuses_21 : (Instr.unassignedOffset 0 21 none).wellFormed = false := by decide
theorem test_wellFormed_unassignedOffset_accepts_ends :
    (Instr.unassignedOffset 0 22 none).wellFormed = true ∧ (Instr.unassignedOffset 7 31 (some 5)).wellFormed = true := by decide
theorem test_wellFormed_windowWrite_refuses_maskSet : (Instr.windowWrite 0 15 1).wellFormed = false := by decide
theorem test_wellFormed_windowWrite_refuses_maskClear : (Instr.windowWrite 0 16 1).wellFormed = false := by decide
theorem test_wellFormed_windowWrite_refuses_faultCause : (Instr.windowWrite 0 18 1).wellFormed = false := by decide
theorem test_wellFormed_windowWrite_refuses_unassigned : (Instr.windowWrite 0 22 1).wellFormed = false := by decide
theorem test_wellFormed_windowWrite_accepts : (Instr.windowWrite 0 4 1).wellFormed = true := by decide

/-! ### The worked sequences, event by event -/

/-- 11 section 11.8: station 1 holds name 5000 exclusively. -/
def batch (queue : List Waiter) : State := withTable [(6, lockRecord 5000 0 [(1, excl none)] queue)]

/-- The queue of 11 section 11.8 after event 3. -/
def batchQueue : List Waiter := [⟨2, .shared, .unlimited⟩, ⟨3, .shared, .ticks 30⟩, ⟨4, .exclusive, .unlimited⟩]

theorem test_claim_queued_behind_exclusive :
    result 2 (exec (.claim 2) (given (batch []) 2 (cmd 0x10 5000 0 255))) = some ⟨.queued, 1, 0, 0, 0⟩ := by decide +kernel

theorem test_release_grants_the_shared_batch :
    seen (fun t => (t.record 6, t.holdingCounts.toList, (t.ctx 2).notices, (t.ctx 3).notices, (t.ctx 1).result))
        (exec (.release 1) (given (batch batchQueue) 1 (cmd 0x11 5000 0 0)))
      = some (some (lockRecord 5000 0 [(2, shar none), (3, shar none)] [⟨4, .exclusive, .unlimited⟩]),
          [0, 0, 1, 1, 0, 0, 0, 0], [⟨.granted, 5000, 0⟩], [⟨.granted, 5000, 0⟩], ⟨.done, 0, 0, 0, 0⟩) := by decide +kernel

/-- 11 section 11.9: stations 2 and 3 hold name 600 shared. -/
def shared600 (queue : List Waiter) : State := withTable [(9, lockRecord 600 0 [(2, shar none), (3, shar none)] queue)]

theorem test_upgrade_queued_at_head :
    result 2 (exec (.upgrade 2) (given (shared600 []) 2 (cmd 0x12 600 0 255))) = some ⟨.queued, 1, 0, 0, 0⟩ := by decide +kernel

theorem test_upgrade_refused_deadlock :
    result 3 (exec (.upgrade 3) (given (shared600 [⟨2, .upgrade, .unlimited⟩]) 3 (cmd 0x12 600 0 255)))
      = some ⟨.deadlock, 2, 0, 0, 0⟩ := by decide +kernel

theorem test_release_grants_the_upgrade :
    seen (fun t => (t.record 9, (t.ctx 2).notices, t.holdingCount 2, t.holdingCount 3))
        (exec (.release 3) (given (shared600 [⟨2, .upgrade, .unlimited⟩]) 3 (cmd 0x11 600 0 0)))
      = some (some (lockRecord 600 0 [(2, excl none)] []), [⟨.granted, 600, 1⟩], 1, 0) := by decide +kernel

/-- 11 section 11.10: station 5 holds name 810 exclusively and station 6 waits. -/
def handover (lease : Nat) : State :=
  withTable [(11, lockRecord 810 3 [(5, excl (some lease))] [⟨6, .exclusive, .ticks (lease + 7)⟩])]

theorem test_tick_warns :
    seen (fun t => (t.record 11, (t.ctx 5).notices)) (exec .leaseTick (handover 2))
      = some (some (lockRecord 810 3 [(5, excl (some 1))] [⟨6, .exclusive, .ticks 8⟩]), [⟨.warning, 810, 1⟩]) := by decide +kernel

theorem test_expiry_hands_over_tainted :
    seen (fun t => (t.record 11, (t.ctx 5).notices, (t.ctx 6).notices)) (exec (.leaseExpiry 5 11) (handover 1))
      = some (some { lockRecord 810 3 [(6, excl (some 3))] [] with taint := some 5 },
          [⟨.revoked, 810, 1⟩], [⟨.granted, 810, 0x17⟩]) := by decide +kernel

theorem test_renew_after_expiry :
    result 5 (exec (.renew 5) (given (withTable [(11, lockRecord 810 3 [(6, excl (some 3))] [])]) 5 (cmd 0x14 810 0 0)))
      = some ⟨.notHolder, 0, 0, 0, 0⟩ := by decide +kernel

theorem test_renew_reloads :
    result 5 (exec (.renew 5) (given (handover 1) 5 (cmd 0x14 810 0 0))) = some ⟨.done, 3, 0, 0, 0⟩ := by decide +kernel

/-- Name 810 after the handover: station 6 holds it and it is tainted. -/
def tainted810 : State := withTable [(11, { lockRecord 810 3 [(6, excl (some 3))] [] with taint := some 5 })]

theorem test_inspect_own_view_shows_revoked_station :
    result 6 (exec (.inspect 6) (given tainted810 6 (cmd 0x20 810 0 9))) = some ⟨.done, 1, 1, 3, 0x17⟩ := by decide +kernel

theorem test_clearTaint_done :
    result 6 (exec (.clearTaint 6) (given tainted810 6 (cmd 0x16 810 0 0))) = some ⟨.done, 1, 5, 0, 0⟩ := by decide +kernel

theorem test_release_retires_idle_transient :
    seen (fun t => (t.record 11, t.poolSize))
        (exec (.release 5) (given (withTable [(11, lockRecord 810 3 [(5, excl none)] [])]) 5 (cmd 0x11 810 0 0)))
      = some (none, 64) := by decide +kernel

/-- 11 section 11.11: the last record of station 2's detach walk. -/
def detach33 : State := withTable [(40, lockRecord 33 0 [(2, excl none)] [⟨4, .exclusive, .unlimited⟩])]

/-- Station 2 is DETACHING and its walk stands at a slot. -/
def detaching (s : State) (p : SlotId) (removed : Nat) : State :=
  walking (s.modifyCtx 2 fun x => { x with life := .detaching }) 2 ⟨.detach, 2, p, removed, 0⟩

theorem test_detach_first_turn :
    seen (fun t => ((t.ctx 2).life, (t.ctx 2).slot, t.record 40)) (exec (.detach 2) (given detach33 2 (cmd 0x02 0 0 0)))
      = some (.detaching, .executing (cmd 0x02 0 0 0) ⟨.detach, 2, 1, 0, 0⟩, detach33.record 40) := by decide +kernel

theorem test_detachWalkStep_releases_and_grants :
    seen (fun t => (t.record 40, (t.ctx 2).slot.walk, (t.ctx 4).notices, t.holdingCount 2, t.holdingCount 4))
        (exec (.detachWalkStep 2) (detaching detach33 40 1))
      = some (some (lockRecord 33 0 [(4, excl none)] []), some ⟨.detach, 2, 41, 2, 0⟩, [⟨.granted, 33, 1⟩], 0, 1) := by
  decide +kernel

theorem test_detachWalkStep_ends_offline :
    seen (fun t => ((t.ctx 2).life, (t.ctx 2).result, (t.ctx 2).resultReady)) (exec (.detachWalkStep 2) (detaching up 63 2))
      = some (.offline, ⟨.done, 2, 0, 0, 0⟩, true) := by decide +kernel

/-- 11 section 11.12, in the small: slot 45 holds a transient record, slot 62 an idle tainted one. -/
def exhausted : State :=
  withTable [(45, lockRecord 4500 0 [(1, excl none)] []), (62, { lockRecord 620 0 [] [] with taint := some 5 })]

/-- A table with no free slot. -/
def full : State := { up with slots := Vector.ofFn fun i => some (lockRecord (BitVec.ofNat 16 (100 + i.val)) 0 [(1, excl none)] []) }

theorem test_claim_table_full :
    result 3 (exec (.claim 3) (given full 3 (cmd 0x10 7777 1 0))) = some ⟨.tableFull, 0, 0, 0, 0⟩ := by decide +kernel

theorem test_define_adopts :
    result 0 (exec (.define 0) (given exhausted 0 (cmd 0x30 4500 4 0xFF))) = some ⟨.done, 45, 1, 0, 0⟩ := by decide +kernel

theorem test_define_table_full :
    result 0 (exec (.define 0) (given full 0 (cmd 0x30 9000 4 0xFF))) = some ⟨.tableFull, 0, 0, 0, 0⟩ := by decide +kernel

theorem test_retire_tainted :
    seen (fun t => (t.record 62, (t.ctx 0).result)) (exec (.retire 0) (given exhausted 0 (cmd 0x32 620 0 0)))
      = some (none, ⟨.done, 62, 1, 5, 0⟩) := by decide +kernel

theorem test_listFirst_tainted :
    result 0 (exec (.listFirst 0) (given exhausted 0 (cmd 0x21 0 3 0))) = some ⟨.done, 0x02, 0x6C, 62, 0⟩ := by decide +kernel

theorem test_listNext_ends :
    result 0 (exec (.listNext 0)
        (given (exhausted.modifyCtx 0 fun x => { x with cursor := some ⟨.tainted, 63⟩ }) 0 (cmd 0x22 0 0 0)))
      = some ⟨.endOfList, 0, 0, 0, 0⟩ := by decide +kernel

/-! ### The other commands -/

theorem test_attach_online :
    seen (fun t => ((t.ctx 3).life, (t.ctx 3).result)) (exec (.attach 3) (given State.reset 3 (cmd 0x01 0 0 0)))
      = some (.online, ⟨.done, 3, 0, 0, 0⟩) := by decide +kernel

theorem test_downgrade_lets_sharers_in :
    seen (fun t => (t.record 6, (t.ctx 1).result)) (exec (.downgrade 1) (given (batch batchQueue) 1 (cmd 0x13 5000 0 0)))
      = some (some (lockRecord 5000 0 [(1, shar none), (2, shar none), (3, shar none)] [⟨4, .exclusive, .unlimited⟩]),
          ⟨.done, 1, 0, 0, 0⟩) := by decide +kernel

theorem test_cancel_leaves_the_queue :
    seen (fun t => ((t.record 6).map (·.queue), (t.ctx 3).result))
        (exec (.cancel 3) (given (batch batchQueue) 3 (cmd 0x15 0 0 0)))
      = some (some [⟨2, .shared, .unlimited⟩, ⟨4, .exclusive, .unlimited⟩], ⟨.done, 0, 0, 0, 0⟩) := by decide +kernel

theorem test_cancel_no_wait : result 3 (exec (.cancel 3) (given up 3 (cmd 0x15 0 0 0))) = some ⟨.noWait, 0, 0, 0, 0⟩ := by
  decide +kernel

theorem test_stationInfo_names_the_wait :
    result 0 (exec (.stationInfo 0) (given (batch batchQueue) 0 (cmd 0x35 0 0 4))) = some ⟨.done, 1, 0, 0x13, 0x88⟩ := by
  decide +kernel

theorem test_inspect_summary :
    result 0 (exec (.inspect 0) (given (batch batchQueue) 0 (cmd 0x20 5000 0 0))) = some ⟨.done, 0x14, 0x02, 3, 0xFF⟩ := by
  decide +kernel

theorem test_amend_withdraws_the_unpermitted :
    seen (fun t => ((t.record 6).map (·.queue), (t.ctx 3).notices, (t.ctx 0).result))
        (exec (.amend 0)
          (given ((batch batchQueue).setRecord 6 (some { lockRecord 5000 0 [(1, excl none)] batchQueue with kind := .standing }))
            0 (cmd 0x31 5000 4 0xF7)))
      = some (some [⟨2, .shared, .unlimited⟩, ⟨4, .exclusive, .unlimited⟩], [⟨.withdrawn, 5000, 4⟩], ⟨.done, 6, 0, 1, 0⟩) := by
  decide +kernel

theorem test_configureClass_refits :
    seen (fun t => (t.leaseClass 3, (t.record 11).map (·.holding 5), (t.ctx 0).result))
        (exec (.configureClass 0) (given (handover 3) 0 ⟨0x33, 3, 0, 2, 0⟩))
      = some (⟨2, 0⟩, some (some (excl (some 2))), ⟨.done, 3, 1, 0, 0⟩) := by decide +kernel

theorem test_configurePrescaler :
    seen (fun t => (t.lease.p, t.lease.count, (t.ctx 0).result)) (exec (.configurePrescaler 0) (given up 0 ⟨0x33, 4, 0, 9, 0⟩))
      = some (9, 0, ⟨.done, 0xFF, 0, 0, 0⟩) := by decide +kernel

theorem test_configureTickRun :
    seen (fun t => (t.lease.running, (t.ctx 0).result)) (exec (.configureTickRun 0) (given up 0 ⟨0x33, 5, 0, 1, 0⟩))
      = some (true, ⟨.done, 0, 0, 0, 0⟩) := by decide +kernel

theorem test_configureDefaults :
    seen (fun t => (t.defaults, (t.ctx 0).result)) (exec (.configureDefaults 0) (given up 0 ⟨0x33, 6, 0, 2, 0x0F⟩))
      = some (⟨2, false, 0x0F⟩, ⟨.done, 4, 0xFF, 0, 0⟩) := by decide +kernel

theorem test_purge_first_turn :
    seen (fun t => ((t.ctx 2).life, (t.ctx 0).slot.walk)) (exec (.purge 0) (given detach33 0 (cmd 0x34 0 0 2)))
      = some (.purging, some ⟨.purge, 2, 1, 0, 0⟩) := by decide +kernel

theorem test_purgeWalkStep_taints :
    seen (fun t => ((t.record 40).map (·.taint), (t.ctx 4).notices, (t.ctx 0).slot.walk))
        (exec (.purgeWalkStep 0)
          (walking (detach33.modifyCtx 2 fun x => { x with life := .purging }) 0 ⟨.purge, 2, 40, 0, 0⟩))
      = some (some (some 2), [⟨.granted, 33, 0x0B⟩], some ⟨.purge, 2, 41, 1, 1⟩) := by decide +kernel

theorem test_badCommand :
    result 3 (exec (.badCommand 3) (given State.reset 3 (cmd 0x7F 0 0 0))) = some ⟨.badCommand, 0, 0, 0, 0⟩ := by decide +kernel

theorem test_waitTimeOut_announced :
    seen (fun t => ((t.record 6).map (·.queue), (t.ctx 2).notices))
        (exec (.waitTimeOut 2) (batch [⟨2, .shared, .ticks 1⟩, ⟨3, .exclusive, .unlimited⟩]))
      = some (some [⟨3, .exclusive, .unlimited⟩], [⟨.timedOut, 5000, 0⟩]) := by decide +kernel

/-- Station 1 has a result ready and one notice, a loss noted and a fault. -/
def noticed : State :=
  up.modifyCtx 1 fun x =>
    { x with
      result := ⟨.granted, 1, 0, 0, 0⟩
      resultReady := true
      notices := [⟨.revoked, 0x1234, 1⟩]
      mask := 0x10
      noticeLost := true
      fault := ⟨some .commandOverrun, 0x10, true⟩ }

theorem test_resultRead :
    seen (fun t => (t.dataPins, (t.ctx 1).resultReady)) (exec (.resultRead 1) noticed) = some (some 2, false) := by decide +kernel

theorem test_statusRead :
    seen (fun t => (t.dataPins, (t.ctx 1).noticeLost)) (exec (.statusRead 1) noticed) = some (some 0xD9, false) := by
  decide +kernel

theorem test_noticeTake :
    seen (fun t => (t.dataPins, windowRead t 1 12, windowRead t 1 13, windowRead t 1 14, t.lineLow 1))
        (exec (.noticeTake 1) noticed) = some (some 4, 0x12, 0x34, 1, false) := by decide +kernel

theorem test_take_held_by_an_entry_behind_the_head :
    (let s := given ((batch batchQueue).modifyCtx 2 fun x => { x with notices := [⟨.warning, 9, 1⟩] }) 1 (cmd 0x11 5000 0 0);
      seen (fun t => (windowRead s 2 11, windowRead t 2 11, readHeld s t 2 11, readHeld s t 4 11)) (exec (.release 1) s))
      = some (5, 5, true, false) := by decide +kernel

theorem test_read_held_by_completion :
    (let s := given (batch []) 2 (cmd 0x10 5000 0 255);
      seen (fun t => (readHeld s t 2 5, readHeld s t 2 10, readHeld s t 2 4, readHeld s t 1 10)) (exec (.claim 2) s))
      = some (true, true, false, false) := by decide +kernel

theorem test_maskSet_and_maskClear :
    seen (fun t => (t.ctx 1).mask) (exec (.maskSet 1 0xC1) noticed) = some 0x11
      ∧ seen (fun t => (t.ctx 1).mask) (exec (.maskClear 1 0xFF) noticed) = some 0 := by decide +kernel

theorem test_faultCauseWrite :
    seen (fun t => (windowRead noticed 1 18, windowRead t 1 18, windowRead t 1 19)) (exec (.faultCauseWrite 1 7) noticed)
      = some (0x83, 0, 0) := by decide +kernel

theorem test_unassignedOffset :
    seen (fun t => (t.dataPins, windowRead t 0 18, windowRead t 0 19)) (exec (.unassignedOffset 0 31 none) up)
      = some (some 0xFF, 1, 31) := by decide +kernel

theorem test_windowWrite_captures :
    seen (fun t => ((t.ctx 3).slot, windowRead t 3 4)) (exec (.windowWrite 3 4 0x15) up)
      = some (.pending (cmd 0x15 0 0 0), 0x15) := by decide +kernel

theorem test_windowWrite_overrun :
    seen (fun t => (windowRead t 2 18, windowRead t 2 19)) (exec (.windowWrite 2 4 0x10) (detaching up 5 0))
      = some (3, 0x10) := by decide +kernel

theorem test_reset_restores :
    seen (fun t => decide (t = { State.reset with resetPin := true })) (exec (.reset true) noticed) = some true := by
  decide +kernel

/-! ### What the obligations ask of a state, met -/

/-- Where every pair of the stands-before relation runs upward, so does every chain. -/
theorem chain_lt {s : State} (h : ∀ a b, s.StandsBefore a b → a < b) {a b : StationId} (c : s.ChainTo a b) : a < b := by
  induction c with
  | single x => exact h _ _ x
  | tail _ x ih => exact lt_trans ih (h _ _ x)

/-- A next state whose result a test reads exists, with the code read. -/
theorem next_with_code {st : StationId} {a : Answer} {x : Result} (h : result st a = some x) :
    ∃ t, a = .next t ∧ (t.ctx st).result.code = x.code := by
  obtain ⟨t, e, h⟩ := seen_next h
  exact ⟨t, e, congrArg Result.code h⟩

/-- The count stands one period before its tick. -/
def almost : State := { handover 2 with lease := { (handover 2).lease with count := 1023 } }

theorem witness_IdleStepIsOneClkPeriod :
    State.reset.pending = [] ∧ State.reset.lease.running = false
      ∧ (handover 2).pending = [] ∧ (handover 2).lease.running = true
      ∧ almost.pending = [] ∧ almost.resetPin = false ∧ almost.lease.count + 1 = 1024 * (almost.lease.p.toNat + 1) := by
  decide +kernel

theorem witness_LeaseTickIsRemainingClkPeriods :
    almost.pending = [] ∧ almost.resetPin = false ∧ almost.lease.running = true
      ∧ almost.lease.count + 1 = 1024 * (almost.lease.p.toNat + 1)
      ∧ (handover 2).lease.count + 1024 = 1024 * ((handover 2).lease.p.toNat + 1) := by
  decide +kernel

theorem witness_ResetHoldsAndRestores :
    ({ up with resetPin := true } : State).resetPin = true ∧ ({ up with resetPin := true } : State).pending = []
      ∧ ∀ b, Instr.leaseTick ≠ .reset b := by
  decide +kernel

/-- Stations 1 and 6 have work and the turn pointer stands at 7: the rotation wraps and reaches station 1 first. -/
def contended : State :=
  { given (given up 1 (cmd 0x15 0 0 0)) 6 (cmd 0x15 0 0 0) with turnPointer := 7 }

theorem witness_ArbiterServesRotation :
    contended.resetPin = false ∧ contended.turnDue = some (.cancel 1) ∧ turnStation (.cancel 1) = some 1
      ∧ (contended.ctx 6).slot ≠ .empty ∧ (State.reset.arbiter = none)
      ∧ contended.turnDue ≠ some .leaseTick := by
  decide +kernel

theorem witness_SlotWithWorkIsServedInRound :
    contended.resetPin = false ∧ (contended.ctx 6).slot ≠ .empty ∧ (∃ t, exec (.cancel 1) contended = .next t)
      ∧ contended.turnDue = some (.cancel 1) ∧ turnStation (.cancel 1) ≠ some 6
      ∧ contended.turnDue ≠ some (.cancel 6) ∧ (∃ t, exec (.cancel 6) contended = .next t) := by
  have h (i : Instr) (c : seen (fun _ => ()) (exec i contended) = some ()) : ∃ t, exec i contended = .next t :=
    (seen_next c).imp fun _ e => e.1
  exact ⟨by decide +kernel, by decide +kernel, h _ (by decide +kernel), by decide +kernel, by decide +kernel,
    by decide +kernel, h _ (by decide +kernel)⟩

/-- Name 810 held shared by stations 2 and 3, the first with a lease and an upgrade wait that both run low. -/
def upgrading (lease deadline : Nat) : Record :=
  lockRecord 810 3 [(2, shar (some lease)), (3, shar (some 3))] [⟨2, .upgrade, .ticks deadline⟩]

theorem witness_EventNotDueChangesNothing :
    turnStation (.cancel 6) ≠ none ∧ contended.turnDue ≠ some (.cancel 6)
      ∧ (∀ r ∈ (handover 2).record 11, ∀ h ∈ r.holding 5, ∀ n ∈ h.lease, 2 ≤ n) ∧ ¬ up.Waiting 3
      ∧ up.lease.running = false := by
  refine ⟨by decide +kernel, by decide +kernel, by decide +kernel, ?_, by decide +kernel⟩
  rw [← State.hasWait_iff]
  decide +kernel

/-- A station waits, and the next tick does not time its wait out: the deadline is UNLIMITED, or 2, or the upgrade wait is
withdrawn at that tick instead. -/
theorem witness_EventNotDueChangesNothing_waits :
    (∀ i, ∀ r ∈ (batch batchQueue).record i, ∀ w ∈ r.queue, w.station = 2 → w.deadline = .unlimited)
      ∧ (∀ i, ∀ r ∈ (batch [⟨2, .shared, .ticks 2⟩]).record i, ∀ w ∈ r.queue, w.station = 2 → w.deadline = .ticks 2)
      ∧ (∀ i, ∀ r ∈ (withTable [(11, upgrading 1 1)]).record i, ∀ w ∈ r.queue, w.station = 2 →
          w.request = .upgrade ∧ r.Expiring 2)
      ∧ (batch batchQueue).hasWait 2 = true ∧ (batch [⟨2, .shared, .ticks 2⟩]).hasWait 2 = true
      ∧ (withTable [(11, upgrading 1 1)]).hasWait 2 = true := by
  decide +kernel

theorem witness_EntryChecksInOrder :
    (let s := given up 1 (cmd 0x00 0 0 0); s.resetPin = false ∧ s.arbiter = some 1 ∧ (cmd 0x00 0 0 0).command = none)
      ∧ (let s := given State.reset 7 (cmd 0x10 5 1 0);
        s.arbiter = some 7 ∧ (cmd 0x10 5 1 0).command = some .claim ∧ (s.ctx 7).life ≠ .online)
      ∧ (let s := given up 1 (cmd 0x30 5 4 0);
        s.arbiter = some 1 ∧ (cmd 0x30 5 4 0).command = some .define ∧ (s.ctx 1).life = .online ∧ (1 : StationId) ≠ 0) := by
  decide +kernel

theorem witness_TurnCompletesOrLeavesWalk :
    contended.resetPin = false ∧ contended.turnDue = some (.cancel 1) ∧ turnStation (.cancel 1) = some 1
      ∧ (let s := given detach33 2 (cmd 0x02 0 0 0); s.turnDue = some (.detach 2) ∧ turnStation (.detach 2) = some 2) := by
  decide +kernel

/-- The refused upgrade of 11 section 11.9, event 2. -/
def deadlocked : State := given (shared600 [⟨2, .upgrade, .unlimited⟩]) 3 (cmd 0x12 600 0 255)

theorem witness_RefusalOnlyPostsItsCode :
    deadlocked.resetPin = false ∧ deadlocked.turnDue = some (.upgrade 3) ∧ turnStation (.upgrade 3) = some 3
      ∧ seen (fun t => (decide ((t.ctx 3).slot = .empty), (t.ctx 3).result.code)) (exec (.upgrade 3) deadlocked)
        = some (true, .deadlock)
      ∧ seen (fun t => (decide ((t.ctx 3).slot = .empty), (t.ctx 3).result.code))
          (exec (.claim 3) (given full 3 (cmd 0x10 7777 1 0))) = some (true, .tableFull)
      ∧ 64 ≤ ResultCode.deadlock.byte.toNat := by
  decide +kernel

/-- What most statements ask of a state: the command is due, names are unique, and a station has at most one wait. -/
def Ready (s : State) (st : StationId) (c : Captured) (cmd : Command) : Prop :=
  Due s st c cmd ∧ s.NamesLaw ∧ s.OneWaitLaw

theorem witness_ClaimChecksInOrder : Ready (given (batch batchQueue) 5 (cmd 0x10 5000 1 9)) 5 (cmd 0x10 5000 1 9) .claim := by
  unfold Ready Due State.NamesLaw State.OneWaitLaw
  decide +kernel

/-- Station 3 with a commitment of 15. -/
def committed : State := up.setCount 3 15

theorem witness_ClaimOfAbsentNameCreates :
    Due (given committed 3 (cmd 0x10 1 1 0)) 3 (cmd 0x10 1 1 0) .claim ∧ (cmd 0x10 1 1 0).s2 = Mode.exclusive.byte
      ∧ (cmd 0x10 1 1 0).name ≠ 0 ∧ (given committed 3 (cmd 0x10 1 1 0)).Absent (cmd 0x10 1 1 0).name
      ∧ (given committed 3 (cmd 0x10 1 1 0)).LowestFree 0 ∧ (given committed 3 (cmd 0x10 1 1 0)).commitment 3 < 16
      ∧ (Mode.exclusive = .shared → (given committed 3 (cmd 0x10 1 1 0)).defaults.sharedAllowed = true) := by
  unfold Due State.Absent State.LowestFree
  decide +kernel

/-- Station 5 holds name 810 at depth 14. -/
def deep : State := withTable [(11, lockRecord 810 3 [(5, ⟨.exclusive, 14, some 1⟩)] [])]

theorem witness_ClaimReentersHolding :
    Ready (given deep 5 (cmd 0x10 810 0 0)) 5 (cmd 0x10 810 0 0) .claim ∧ (cmd 0x10 810 0 0).s2 = Mode.shared.byte
      ∧ (given deep 5 (cmd 0x10 810 0 0)).Named (cmd 0x10 810 0 0).name 11
        (lockRecord 810 3 [(5, ⟨.exclusive, 14, some 1⟩)] [])
      ∧ (lockRecord 810 3 [(5, ⟨.exclusive, 14, some 1⟩)] []).attrs = ⟨3, true, 0xFF⟩
      ∧ (lockRecord 810 3 [(5, ⟨.exclusive, 14, some 1⟩)] []).holding 5 = some ⟨.exclusive, 14, some 1⟩ := by
  unfold Ready Due State.NamesLaw State.OneWaitLaw State.Named
  decide +kernel

theorem witness_ClaimGrantedAtOnce :
    Ready (given (shared600 []) 4 (cmd 0x10 600 0 0)) 4 (cmd 0x10 600 0 0) .claim
      ∧ (given (shared600 []) 4 (cmd 0x10 600 0 0)).Named (cmd 0x10 600 0 0).name 9
        (lockRecord 600 0 [(2, shar none), (3, shar none)] [])
      ∧ (lockRecord 600 0 [(2, shar none), (3, shar none)] []).holding 4 = none
      ∧ (given (shared600 []) 4 (cmd 0x10 600 0 0)).commitment 4 < 16
      ∧ (lockRecord 600 0 [(2, shar none), (3, shar none)] []).GrantableNow .shared := by
  rw [← Record.grantableNow_iff]
  unfold Ready Due State.NamesLaw State.OneWaitLaw State.Named
  decide +kernel

/-- Event 3 of 11 section 11.8, with station 4's claim due. -/
def thirdClaim : State := given (batch [⟨2, .shared, .unlimited⟩, ⟨3, .shared, .ticks 30⟩]) 4 (cmd 0x10 5000 1 255)

/-- The record of that event. -/
def thirdRecord : Record := lockRecord 5000 0 [(1, excl none)] [⟨2, .shared, .unlimited⟩, ⟨3, .shared, .ticks 30⟩]

theorem witness_ClaimQueuedAtTail :
    Ready thirdClaim 4 (cmd 0x10 5000 1 255) .claim ∧ (cmd 0x10 5000 1 255).s2 = Mode.exclusive.byte
      ∧ thirdClaim.Named (cmd 0x10 5000 1 255).name 6 thirdRecord ∧ thirdRecord.attrs.permit.getLsbD 4 = true
      ∧ thirdRecord.holding 4 = none ∧ thirdClaim.commitment 4 < 16 ∧ ¬ thirdRecord.GrantableNow .exclusive
      ∧ ¬ thirdClaim.Waiting 4 ∧ (thirdClaim.ctx 4).notices.length < 8
      ∧ ∀ b, (thirdRecord.holding b ≠ none ∨ ∃ w ∈ thirdRecord.queue, w.station = b) → ¬ thirdClaim.ChainTo 4 b := by
  rw [← Record.grantableNow_iff, ← State.hasWait_iff]
  refine ⟨?_, by decide +kernel, ?_, by decide +kernel, by decide +kernel, by decide +kernel, by decide +kernel,
    by decide +kernel, by decide +kernel, fun b hb hc => ?_⟩
  · unfold Ready Due State.NamesLaw State.OneWaitLaw
    decide +kernel
  · unfold State.Named
    decide +kernel
  · have lt : (4 : StationId) < b := chain_lt (by unfold State.StandsBefore; decide +kernel) hc
    clear hc
    revert b
    decide +kernel

theorem witness_UpgradeChecksInOrder : Ready deadlocked 3 (cmd 0x12 600 0 255) .upgrade := by
  unfold Ready Due State.NamesLaw State.OneWaitLaw
  decide +kernel

theorem witness_UpgradeOfOnlyHolderAtOnce :
    Ready (given (withTable [(9, lockRecord 600 0 [(2, shar none)] [])]) 2 (cmd 0x12 600 0 0)) 2 (cmd 0x12 600 0 0) .upgrade
      ∧ (given (withTable [(9, lockRecord 600 0 [(2, shar none)] [])]) 2 (cmd 0x12 600 0 0)).Named (cmd 0x12 600 0 0).name 9
        (lockRecord 600 0 [(2, shar none)] [])
      ∧ (lockRecord 600 0 [(2, shar none)] []).holding 2 = some (shar none)
      ∧ (lockRecord 600 0 [(2, shar none)] []).attrs.permit.getLsbD 2 = true
      ∧ (lockRecord 600 0 [(2, shar none)] []).OnlyHolder 2 := by
  unfold Ready Due State.NamesLaw State.OneWaitLaw State.Named Record.OnlyHolder
  decide +kernel

/-- Event 1 of 11 section 11.9, with station 2's upgrade due. -/
def firstUpgrade : State := given (shared600 []) 2 (cmd 0x12 600 0 255)

theorem witness_UpgradeQueuedAtHead :
    Ready firstUpgrade 2 (cmd 0x12 600 0 255) .upgrade
      ∧ firstUpgrade.Named (cmd 0x12 600 0 255).name 9 (lockRecord 600 0 [(2, shar none), (3, shar none)] [])
      ∧ (lockRecord 600 0 [(2, shar none), (3, shar none)] []).holding 2 = some (shar none)
      ∧ (lockRecord 600 0 [(2, shar none), (3, shar none)] []).attrs.permit.getLsbD 2 = true
      ∧ ¬ (lockRecord 600 0 [(2, shar none), (3, shar none)] []).OnlyHolder 2
      ∧ ¬ firstUpgrade.Waiting 2 ∧ (firstUpgrade.ctx 2).notices.length < 8
      ∧ ∀ b, (lockRecord 600 0 [(2, shar none), (3, shar none)] []).holding b ≠ none → b ≠ 2 → ¬ firstUpgrade.ChainTo 2 b := by
  rw [← State.hasWait_iff]
  refine ⟨?_, ?_, by decide +kernel, by decide +kernel, ?_, by decide +kernel, by decide +kernel, fun b _ _ hc => ?_⟩
  · unfold Ready Due State.NamesLaw State.OneWaitLaw
    decide +kernel
  · unfold State.Named
    decide +kernel
  · unfold Record.OnlyHolder
    decide +kernel
  · have none : ∀ a b, ¬ firstUpgrade.StandsBefore a b := by
      unfold State.StandsBefore
      decide +kernel
    cases hc with
    | single h => exact none _ _ h
    | tail _ h => exact none _ _ h

/-- 03 section 3.11 in the small: station 1 holds name 10, on which station 3 waits, and claims name 20, which 3 holds. -/
def crossed : State :=
  given (withTable [(0, lockRecord 10 0 [(1, excl none)] [⟨3, .exclusive, .unlimited⟩]), (1, lockRecord 20 0 [(3, excl none)] [])])
    1 (cmd 0x10 20 1 255)

theorem witness_DeadlockNamesLowestBlocker :
    (Ready crossed 1 (cmd 0x10 20 1 255) .claim
        ∧ crossed.Named (cmd 0x10 20 1 255).name 1 (lockRecord 20 0 [(3, excl none)] [])
        ∧ result 1 (exec (.claim 1) crossed) = some ⟨.deadlock, 3, 0, 0, 0⟩)
      ∧ (Ready thirdClaim 4 (cmd 0x10 5000 1 255) .claim
        ∧ result 4 (exec (.claim 4) thirdClaim) = some ⟨.queued, 3, 0, 0, 0⟩)
      ∧ (Ready deadlocked 3 (cmd 0x12 600 0 255) .upgrade
        ∧ deadlocked.Named (cmd 0x12 600 0 255).name 9
          (lockRecord 600 0 [(2, shar none), (3, shar none)] [⟨2, .upgrade, .unlimited⟩])
        ∧ result 3 (exec (.upgrade 3) deadlocked) = some ⟨.deadlock, 2, 0, 0, 0⟩)
      ∧ (Ready firstUpgrade 2 (cmd 0x12 600 0 255) .upgrade
        ∧ result 2 (exec (.upgrade 2) firstUpgrade) = some ⟨.queued, 1, 0, 0, 0⟩) := by
  unfold Ready Due State.NamesLaw State.OneWaitLaw State.Named
  exact ⟨by decide +kernel, by decide +kernel, by decide +kernel, by decide +kernel⟩

theorem witness_ReleaseLowersOrRemoves :
    (Ready (given deep 5 (cmd 0x11 810 0 0)) 5 (cmd 0x11 810 0 0) .release
        ∧ (given deep 5 (cmd 0x11 810 0 0)).Named (cmd 0x11 810 0 0).name 11
          (lockRecord 810 3 [(5, ⟨.exclusive, 14, some 1⟩)] []))
      ∧ (Ready (given (handover 1) 5 (cmd 0x11 810 0 0)) 5 (cmd 0x11 810 0 0) .release
        ∧ (given (handover 1) 5 (cmd 0x11 810 0 0)).Named (cmd 0x11 810 0 0).name 11
          (lockRecord 810 3 [(5, excl (some 1))] [⟨6, .exclusive, .ticks 8⟩])
        ∧ (lockRecord 810 3 [(5, excl (some 1))] [⟨6, .exclusive, .ticks 8⟩]).holding 5 = some (excl (some 1))
        ∧ ¬ (lockRecord 810 3 [(5, excl (some 1))] [⟨6, .exclusive, .ticks 8⟩]).UpgradeWaiter 5) := by
  unfold Ready Due State.NamesLaw State.OneWaitLaw State.Named Record.UpgradeWaiter
  decide +kernel

theorem witness_DowngradeMakesShared :
    Ready (given (batch batchQueue) 1 (cmd 0x13 5000 0 0)) 1 (cmd 0x13 5000 0 0) .downgrade
      ∧ (given (batch batchQueue) 1 (cmd 0x13 5000 0 0)).Named (cmd 0x13 5000 0 0).name 6
        (lockRecord 5000 0 [(1, excl none)] batchQueue)
      ∧ (lockRecord 5000 0 [(1, excl none)] batchQueue).holding 1 = some (excl none)
      ∧ (lockRecord 5000 0 [(1, excl none)] batchQueue).attrs.sharedAllowed = true := by
  unfold Ready Due State.NamesLaw State.OneWaitLaw State.Named
  decide +kernel

theorem witness_RenewAndClearTaint :
    (Ready (given (handover 1) 5 (cmd 0x14 810 0 0)) 5 (cmd 0x14 810 0 0) .renew
        ∧ (lockRecord 810 3 [(5, excl (some 1))] [⟨6, .exclusive, .ticks 8⟩]).holding 5 = some (excl (some 1))
        ∧ (given (handover 1) 5 (cmd 0x14 810 0 0)).Named (cmd 0x14 810 0 0).name 11
          (lockRecord 810 3 [(5, excl (some 1))] [⟨6, .exclusive, .ticks 8⟩]))
      ∧ (Ready (given tainted810 6 (cmd 0x16 810 0 0)) 6 (cmd 0x16 810 0 0) .clearTaint
        ∧ (given tainted810 6 (cmd 0x16 810 0 0)).Named (cmd 0x16 810 0 0).name 11
          { lockRecord 810 3 [(6, excl (some 3))] [] with taint := some 5 })
      ∧ (Ready (given (handover 1) 5 (cmd 0x16 810 0 0)) 5 (cmd 0x16 810 0 0) .clearTaint
        ∧ (lockRecord 810 3 [(5, excl (some 1))] [⟨6, .exclusive, .ticks 8⟩]).taint = none) := by
  unfold Ready Due State.NamesLaw State.OneWaitLaw State.Named
  decide +kernel

theorem witness_CancelEndsTheWait :
    (Ready (given (batch batchQueue) 3 (cmd 0x15 0 0 0)) 3 (cmd 0x15 0 0 0) .cancel
        ∧ (given (batch batchQueue) 3 (cmd 0x15 0 0 0)).record 6 = some (lockRecord 5000 0 [(1, excl none)] batchQueue)
        ∧ (⟨3, .shared, .ticks 30⟩ : Waiter) ∈ batchQueue)
      ∧ (Ready (given up 3 (cmd 0x15 0 0 0)) 3 (cmd 0x15 0 0 0) .cancel ∧ ¬ (given up 3 (cmd 0x15 0 0 0)).Waiting 3) := by
  rw [← State.hasWait_iff]
  unfold Ready Due State.NamesLaw State.OneWaitLaw
  decide +kernel

theorem witness_GrantRuleRunsThenRetirement :
    ((batch batchQueue).record 6 = some (lockRecord 5000 0 [(1, excl none)] batchQueue))
      ∧ ((withTable [(63, lockRecord 5000 0 [] [])]).record 63 = some (lockRecord 5000 0 [] [])) := by
  decide +kernel

/-- Station 2 of the batch, with its notice queue of a length. -/
def backlog (n : Nat) : State := (batch batchQueue).modifyCtx 2 fun x => { x with notices := List.replicate n ⟨.warning, 1, 1⟩ }

theorem witness_NoticeAdmissionRule :
    ((State.reset).ctx 0).life ≠ .online
      ∧ ((backlog 6).ctx 2).life = .online ∧ (backlog 6).Waiting 2 ∧ ((backlog 6).ctx 2).notices.length < 7
      ∧ (backlog 7).Waiting 2 ∧ 7 ≤ ((backlog 7).ctx 2).notices.length
      ∧ ¬ (noticed.Waiting 1) ∧ (noticed.ctx 1).notices.length < 8
      ∧ ((noticed.modifyCtx 1 fun x => { x with notices := List.replicate 8 ⟨.warning, 1, 1⟩ }).ctx 1).notices.length = 8 := by
  simp only [← State.hasWait_iff]
  decide +kernel

theorem witness_LeaseTickCountsDown :
    (State.reset.resetPin = false ∧ State.reset.lease.running = false)
      ∧ (handover 2).resetPin = false ∧ (handover 2).lease.running = true ∧ (State.reset.ctx 0).life ≠ .online
      ∧ (handover 2).record 11 = some (lockRecord 810 3 [(5, excl (some 2))] [⟨6, .exclusive, .ticks 9⟩])
      ∧ (∀ a, ∀ h ∈ (lockRecord 810 3 [(5, excl (some 2))] [⟨6, .exclusive, .ticks 9⟩]).holding a, ∀ n ∈ h.lease, 2 ≤ n)
      ∧ 2 - 1 = ((handover 2).leaseClass 3).warn.toNat ∧ ((handover 2).ctx 5).life = .online
      ∧ ¬ (lockRecord 810 3 [(5, excl (some 2))] [⟨6, .exclusive, .ticks 9⟩]).TickEnds
      ∧ (lockRecord 810 3 [(5, excl (some 1))] [⟨6, .exclusive, .ticks 8⟩]).TickEnds
      ∧ (upgrading 2 1).TickEnds := by
  decide +kernel

theorem witness_LeaseExpiryRemovesHolding :
    (handover 1).resetPin = false ∧ (handover 1).lease.running = true
      ∧ (handover 1).record 11 = some (lockRecord 810 3 [(5, excl (some 1))] [⟨6, .exclusive, .ticks 8⟩])
      ∧ (lockRecord 810 3 [(5, excl (some 1))] [⟨6, .exclusive, .ticks 8⟩]).holding 5 = some (excl (some 1))
      ∧ (lockRecord 810 3 [(5, excl (some 1))] [⟨6, .exclusive, .ticks 8⟩]).claimWaitersHoldNothing = true
      ∧ (lockRecord 810 3 [(5, excl (some 1))] [⟨6, .exclusive, .ticks 8⟩]).exclusiveAlone = true
      ∧ (lockRecord 810 3 [(5, shar (some 1))] [⟨6, .exclusive, .ticks 8⟩]).NoExclusiveHolder := by
  unfold Record.NoExclusiveHolder
  decide +kernel

theorem witness_WaitTimeOutEndsWait :
    (let s := withTable [(11, upgrading 2 1)];
      s.resetPin = false ∧ s.lease.running = true ∧ s.OneWaitLaw ∧ s.record 11 = some (upgrading 2 1)
        ∧ (⟨2, .upgrade, .ticks 1⟩ : Waiter) ∈ (upgrading 2 1).queue
        ∧ (∀ h ∈ (upgrading 2 1).holding 2, ∀ n ∈ h.lease, 2 ≤ n) ∧ (s.ctx 2).life = .online)
      ∧ (let s := batch [⟨2, .shared, .ticks 1⟩];
        s.OneWaitLaw ∧ s.lease.running = true ∧ (lockRecord 5000 0 [(1, excl none)] [⟨2, .shared, .ticks 1⟩]).holding 2 = none) := by
  unfold State.OneWaitLaw
  decide +kernel

theorem witness_ExpiryWithdrawsUpgradeWait :
    (let s := withTable [(11, upgrading 1 1)];
      s.resetPin = false ∧ s.lease.running = true ∧ s.OneWaitLaw ∧ s.record 11 = some (upgrading 1 1)
        ∧ (⟨2, .upgrade, .ticks 1⟩ : Waiter) ∈ (upgrading 1 1).queue
        ∧ (upgrading 1 1).holding 2 = some (shar (some 1)) ∧ (s.ctx 2).life = .online) := by
  unfold State.OneWaitLaw
  decide +kernel

theorem witness_AttachBringsOnline :
    (Due (given State.reset 7 (cmd 0x01 0 0 0)) 7 (cmd 0x01 0 0 0) .attach
        ∧ ((given State.reset 7 (cmd 0x01 0 0 0)).ctx 7).life = .offline)
      ∧ (Due (given up 0 (cmd 0x01 0 0 0)) 0 (cmd 0x01 0 0 0) .attach
        ∧ ((given up 0 (cmd 0x01 0 0 0)).ctx 0).life = .online) := by
  unfold Due
  decide +kernel

theorem witness_DetachFirstTurnInOrder : Ready (given (batch batchQueue) 2 (cmd 0x02 0 0 0)) 2 (cmd 0x02 0 0 0) .detach := by
  unfold Ready Due State.NamesLaw State.OneWaitLaw
  decide +kernel

theorem witness_PurgeChecksAndFirstTurn :
    (Due (given up 0 (cmd 0x34 0 0 0)) 0 (cmd 0x34 0 0 0) .purge ∧ Due (given up 0 (cmd 0x34 0 0 8)) 0 (cmd 0x34 0 0 8) .purge)
      ∧ (let s := given (State.reset.modifyCtx 0 fun x => { x with life := .online }) 0 (cmd 0x34 0 0 7);
        Due s 0 (cmd 0x34 0 0 7) .purge ∧ (s.ctx 7).life ≠ .online)
      ∧ (let s := given (batch batchQueue) 0 (cmd 0x34 0 0 1);
        Ready s 0 (cmd 0x34 0 0 1) .purge ∧ (s.ctx 1).life = .online) := by
  unfold Ready Due State.NamesLaw State.OneWaitLaw
  decide +kernel

theorem witness_WalkStepTakesSlot :
    (let s := detaching up 63 2; s.resetPin = false ∧ s.arbiter = some 2 ∧ (s.ctx 2).slot.walk = some ⟨.detach, 2, 63, 2, 0⟩)
      ∧ (let s := walking up 0 ⟨.purge, 2, 63, 2, 1⟩; s.arbiter = some 0 ∧ (s.ctx 0).slot.walk = some ⟨.purge, 2, 63, 2, 1⟩)
      ∧ (let s := walking up 0 ⟨.purge, 2, 62, 2, 1⟩; s.arbiter = some 0 ∧ (s.ctx 0).slot.walk = some ⟨.purge, 2, 62, 2, 1⟩) := by
  decide +kernel

theorem witness_ConfigureClassStoresAndRefits :
    (Due (given up 0 ⟨0x33, 7, 0, 0, 0⟩) 0 ⟨0x33, 7, 0, 0, 0⟩ .configure
        ∧ Due (given up 0 ⟨0x33, 255, 0, 0, 0⟩) 0 ⟨0x33, 255, 0, 0, 0⟩ .configure)
      ∧ (Due (given up 0 ⟨0x33, 0, 0, 1, 1⟩) 0 ⟨0x33, 0, 0, 1, 1⟩ .configure ∧ ¬ ((1 : Byte) = 0 ∧ (1 : Byte) = 0))
      ∧ Due (given (handover 3) 0 ⟨0x33, 3, 0, 2, 1⟩) 0 ⟨0x33, 3, 0, 2, 1⟩ .configure
      ∧ Due (given (handover 3) 0 ⟨0x33, 3, 0, 0, 0⟩) 0 ⟨0x33, 3, 0, 0, 0⟩ .configure := by
  unfold Due
  decide +kernel

theorem witness_ConfigureTimingAndDefaults :
    Due (given up 0 ⟨0x33, 4, 0, 255, 0⟩) 0 ⟨0x33, 4, 0, 255, 0⟩ .configure
      ∧ (Due (given up 0 ⟨0x33, 5, 0, 1, 0⟩) 0 ⟨0x33, 5, 0, 1, 0⟩ .configure ∧ (given up 0 ⟨0x33, 5, 0, 1, 0⟩).lease.running = false)
      ∧ (Due (given (handover 3) 0 ⟨0x33, 5, 0, 1, 0⟩) 0 ⟨0x33, 5, 0, 1, 0⟩ .configure ∧ (handover 3).lease.running = true)
      ∧ Due (given up 0 ⟨0x33, 5, 0, 0, 0⟩) 0 ⟨0x33, 5, 0, 0, 0⟩ .configure
      ∧ Due (given up 0 ⟨0x33, 5, 0, 2, 0⟩) 0 ⟨0x33, 5, 0, 2, 0⟩ .configure
      ∧ Due (given up 0 ⟨0x33, 6, 0, 8, 0⟩) 0 ⟨0x33, 6, 0, 8, 0⟩ .configure
      ∧ (Due (given up 0 ⟨0x33, 6, 0, 7, 0⟩) 0 ⟨0x33, 6, 0, 7, 0⟩ .configure ∧ (7 : Byte).toNat = (3 : ClassId).val + 4) := by
  unfold Due
  decide +kernel

theorem witness_DefineChecksInOrder : Ready (given exhausted 0 (cmd 0x30 4500 0 0xFF)) 0 (cmd 0x30 4500 0 0xFF) .define := by
  unfold Ready Due State.NamesLaw State.OneWaitLaw
  decide +kernel

/-- A state whose standing count has one place left. -/
def lastPlace (s : State) : State := { s with standingCount := 47 }

theorem witness_DefineCreatesOrAdopts :
    (let s := given (lastPlace exhausted) 0 (cmd 0x30 9000 7 0);
      Ready s 0 (cmd 0x30 9000 7 0) .define ∧ s.standingCount < 48 ∧ s.Absent (cmd 0x30 9000 7 0).name ∧ s.LowestFree 0
        ∧ (7 : Byte).toNat = (3 : ClassId).val + 4)
      ∧ (let s := given (lastPlace exhausted) 0 (cmd 0x30 4500 0 0xFF);
        Ready s 0 (cmd 0x30 4500 0 0xFF) .define ∧ s.standingCount < 48
          ∧ s.Named (cmd 0x30 4500 0 0xFF).name 45 (lockRecord 4500 0 [(1, excl none)] [])
          ∧ ¬ (lockRecord 4500 0 [(1, excl none)] []).SharedUse) := by
  unfold Ready Due State.NamesLaw State.OneWaitLaw State.Named State.Absent State.LowestFree Record.SharedUse
  decide +kernel

/-- The batch with its record STANDING. -/
def standingBatch : State :=
  { withTable [(6, { lockRecord 5000 0 [(1, excl none)] batchQueue with kind := .standing })] with standingCount := 1 }

theorem witness_AmendChangesAttributes :
    (let s := given standingBatch 0 (cmd 0x31 5000 7 0xF7);
      Ready s 0 (cmd 0x31 5000 7 0xF7) .amend
        ∧ s.Named (cmd 0x31 5000 7 0xF7).name 6 { lockRecord 5000 0 [(1, excl none)] batchQueue with kind := .standing }
        ∧ (7 : Byte).toNat = (3 : ClassId).val + 4) := by
  unfold Ready Due State.NamesLaw State.OneWaitLaw State.Named
  decide +kernel

theorem witness_RetireRemovesIdleRecord :
    (let s := given exhausted 0 (cmd 0x32 620 0 0);
      Ready s 0 (cmd 0x32 620 0 0) .retire
        ∧ s.Named (cmd 0x32 620 0 0).name 62 { lockRecord 620 0 [] [] with taint := some 5 }
        ∧ Record.NoHolder { lockRecord 620 0 [] [] with taint := some 5 }) := by
  unfold Ready Due State.NamesLaw State.OneWaitLaw State.Named Record.NoHolder
  decide +kernel

theorem witness_InspectReportsViews :
    (let s := given (batch batchQueue) 1 (cmd 0x20 5000 0 0);
      Ready s 1 (cmd 0x20 5000 0 0) .inspect
        ∧ s.Named (cmd 0x20 5000 0 0).name 6 (lockRecord 5000 0 [(1, excl none)] batchQueue))
      ∧ (Ready (given (batch batchQueue) 1 (cmd 0x20 5000 0 1)) 1 (cmd 0x20 5000 0 1) .inspect
        ∧ batchQueue[0]? = some ⟨2, .shared, .unlimited⟩)
      ∧ (Ready (given (batch batchQueue) 1 (cmd 0x20 5000 0 3)) 1 (cmd 0x20 5000 0 3) .inspect
        ∧ batchQueue[2]? = some ⟨4, .exclusive, .unlimited⟩)
      ∧ (Ready (given (batch batchQueue) 1 (cmd 0x20 5000 0 9)) 1 (cmd 0x20 5000 0 9) .inspect
        ∧ (lockRecord 5000 0 [(1, excl none)] batchQueue).holding 1 = some (excl none)) := by
  unfold Ready Due State.NamesLaw State.OneWaitLaw State.Named
  exact ⟨by decide +kernel, by decide +kernel, by decide +kernel, by decide +kernel⟩

theorem witness_ListingReturnsNextMatch :
    Due (given exhausted 0 (cmd 0x21 0 4 0)) 0 (cmd 0x21 0 4 0) .listFirst
      ∧ (Due (given exhausted 0 (cmd 0x22 0 0 0)) 0 (cmd 0x22 0 0 0) .listNext
        ∧ ((given exhausted 0 (cmd 0x22 0 0 0)).ctx 0).cursor = none)
      ∧ (Due (given exhausted 0 (cmd 0x21 0 1 0)) 0 (cmd 0x21 0 1 0) .listFirst
        ∧ (∀ q : SlotId, 0 ≤ q.val → q < 45 → (given exhausted 0 (cmd 0x21 0 1 0)).record q = none)
        ∧ (given exhausted 0 (cmd 0x21 0 1 0)).record 45 = some (lockRecord 4500 0 [(1, excl none)] []))
      ∧ (let s := given (exhausted.modifyCtx 0 fun x => { x with cursor := some ⟨.tainted, 63⟩ }) 0 (cmd 0x22 0 0 0);
        Due s 0 (cmd 0x22 0 0 0) .listNext ∧ (s.ctx 0).cursor = some ⟨.tainted, 63⟩
          ∧ ∀ q : SlotId, 63 ≤ q.val → s.record q = none) := by
  unfold Due
  decide +kernel

theorem witness_StationInfoReports :
    Due (given up 0 (cmd 0x35 0 0 8)) 0 (cmd 0x35 0 0 8) .stationInfo
      ∧ (let s := given (batch batchQueue) 0 (cmd 0x35 0 0 4);
        Ready s 0 (cmd 0x35 0 0 4) .stationInfo ∧ s.record 6 = some (lockRecord 5000 0 [(1, excl none)] batchQueue)
          ∧ (⟨4, .exclusive, .unlimited⟩ : Waiter) ∈ batchQueue)
      ∧ (Due (given up 0 (cmd 0x35 0 0 7)) 0 (cmd 0x35 0 0 7) .stationInfo ∧ ¬ (given up 0 (cmd 0x35 0 0 7)).Waiting 7) := by
  rw [← State.hasWait_iff]
  unfold Ready Due State.NamesLaw State.OneWaitLaw
  decide +kernel

theorem witness_ReadsWithSideEffects :
    noticed.resetPin = false ∧ (up.ctx 1).notices = [] ∧ (noticed.ctx 1).notices = [⟨.revoked, 0x1234, 1⟩] := by
  decide +kernel

theorem witness_WritesStoreCaptureAndMask :
    up.resetPin = false ∧ ((up.ctx 3).slot = .empty ∧ (up.ctx 3).life ≠ .purging)
      ∧ ((detaching up 5 0).resetPin = false ∧ ((detaching up 5 0).ctx 2).slot ≠ .empty)
      ∧ (let s := up.modifyCtx 2 fun x => { x with life := .purging };
        s.resetPin = false ∧ (s.ctx 2).slot = .empty ∧ (s.ctx 2).life = .purging) := by
  decide +kernel

theorem witness_WindowFaultsRecordedAndCleared :
    up.resetPin = false ∧ 22 ≤ (22 : Offset).val ∧ 22 ≤ (31 : Offset).val
      ∧ (5 : Offset).val ∈ [5, 6, 7, 8, 9, 10, 11, 12, 13, 14, 17, 19, 20, 21]
      ∧ (21 : Offset).val ∈ [5, 6, 7, 8, 9, 10, 11, 12, 13, 14, 17, 19, 20, 21] := by
  decide +kernel

theorem witness_AccessReachesOneContext : ∃ t, exec (.statusRead 1) noticed = .next t :=
  (seen_next (f := fun _ => ()) (x := ()) (by decide +kernel)).imp fun _ e => e.1

theorem witness_TurnsAndTicksRaiseNoFault :
    turnStation (.cancel 1) ≠ none ∧ (∃ t, exec (.cancel 1) contended = .next t)
      ∧ ∃ t, exec .leaseTick (handover 1) = .next t :=
  ⟨by decide, (seen_next (f := fun _ => ()) (x := ()) (by decide +kernel)).imp fun _ e => e.1,
    (seen_next (f := fun _ => ()) (x := ()) (by decide +kernel)).imp fun _ e => e.1⟩

/-- A PURGE of a station that has a mask and a fault, due. -/
def purging : State := given noticed 0 (cmd 0x34 0 0 1)

theorem witness_TurnsAndTicksRaiseNoFault_purge :
    seen (fun t => ((t.ctx 1).life, (t.ctx 1).fault, (t.ctx 1).mask, readHeld purging t 1 18, readHeld purging t 1 15))
        (exec (.purge 0) purging) = some (.purging, ⟨none, 0, false⟩, 0, true, true)
      ∧ (purging.ctx 1).life = .online ∧ (purging.ctx 1).mask ≠ 0 := by
  decide +kernel

theorem witness_ConfigurationChangedByItsCommandsOnly :
    (∀ b, Instr.leaseTick ≠ .reset b) ∧ (∀ st, Instr.leaseTick ≠ .amend st) ∧ (∃ t, exec .leaseTick standingBatch = .next t)
      ∧ standingBatch.record 6 = some { lockRecord 5000 0 [(1, excl none)] batchQueue with kind := .standing }
      ∧ seen (fun t => (t.record 6).isSome) (exec .leaseTick standingBatch) = some true :=
  ⟨by decide, by decide, (seen_next (f := fun _ => ()) (x := ()) (by decide +kernel)).imp fun _ e => e.1, by decide +kernel,
    by decide +kernel⟩

/-! The laws hold in a state with holders, waiters, a standing record and a walk, and a step leaves it. -/

/-- The batch beside a standing record and a tainted one; station 7 is OFFLINE and station 2's queue has a notice. -/
def busy : State :=
  (withTable
    [(6, lockRecord 5000 0 [(1, excl none)] batchQueue),
      (11, { lockRecord 810 3 [(5, excl (some 1))] [⟨6, .exclusive, .ticks 8⟩] with taint := some 0 }),
      (12, { lockRecord 77 0 [] [] with kind := .standing })]).modifyCtx 7 fun x => { x with life := .offline }

/-- The state from which the next step runs the tick. -/
def busyNext : State := { busy with pending := [.leaseTick] }

theorem busy_steps : ∃ t, step busyNext = .next t :=
  (seen_next (f := fun _ => ()) (x := ()) (by decide +kernel)).imp fun _ e => e.1

theorem busy_heads : busyNext.EveryRecord Record.HeadHeldBack := by
  have h : ∀ i, ∀ r ∈ busyNext.record i, ∀ w ∈ r.queue.head?, ¬ r.grantable w = true := by decide +kernel
  intro i r hr w hw
  rw [← Record.grantable_iff]
  exact h i r hr w hw

theorem witness_NoGrantableHeadKept :
    busyNext.EveryRecord Record.HeadHeldBack ∧ (∃ t, step busyNext = .next t)
      ∧ (lockRecord 1 0 [] []).HeadHeldBack ∧ (lockRecord 1 0 [] []).upgradeWaiterAtHeadOnly = true
      ∧ (lockRecord 1 0 [] []).NoHolder := by
  refine ⟨busy_heads, busy_steps, ?_, by decide +kernel, by unfold Record.NoHolder; decide +kernel⟩
  intro w hw
  simp [lockRecord] at hw

theorem witness_TableLawKept : busyNext.TableLaw ∧ ∃ t, step busyNext = .next t := by
  refine ⟨?_, busy_steps⟩
  unfold State.TableLaw State.EveryRecord Record.Justified State.NamesLaw State.StandingLaw Record.NoHolder
  decide +kernel

theorem witness_HoldingCountsKept : busyNext.CountsLaw ∧ ∃ t, step busyNext = .next t := by
  refine ⟨?_, busy_steps⟩
  unfold State.CountsLaw State.EveryRecord State.OneWaitLaw
  decide +kernel

theorem witness_NoticeQueuesKeptWithin : busyNext.NoticesLaw ∧ ∃ t, step busyNext = .next t := by
  refine ⟨?_, busy_steps⟩
  unfold State.NoticesLaw State.OneWaitLaw
  simp only [← State.hasWait_iff]
  decide +kernel

theorem witness_NoDeadlockCycleKept : busyNext.NoCycleLaw ∧ ∃ t, step busyNext = .next t := by
  refine ⟨⟨by unfold State.OneWaitLaw; decide +kernel, fun a h => ?_⟩, busy_steps⟩
  exact absurd (chain_lt (by unfold State.StandsBefore; decide +kernel) h) (lt_irrefl a)

theorem witness_HoldingsAndUnitLawKept : busyNext.HoldingsLaw ∧ busyNext.UnitLaw ∧ ∃ t, step busyNext = .next t := by
  refine ⟨?_, ?_, busy_steps⟩
  · unfold State.HoldingsLaw State.LeasesLaw State.EveryRecord
    decide +kernel
  · unfold State.UnitLaw State.ClassesLaw State.PrescalerLaw State.FaultsLaw
    decide +kernel

/-- Station 2 is DETACHING with its walk at slot 5, and holds a record beyond. -/
def leaving : State := { detaching detach33 5 1 with pending := [.detachWalkStep 2] }

theorem witness_StationsAndQueuesLawKept :
    busyNext.StationsLaw ∧ leaving.StationsLaw ∧ busyNext.QueuesLaw ∧ (∃ t, step leaving = .next t)
      ∧ ∃ t, step busyNext = .next t := by
  have stations : busyNext.StationsLaw := by
    unfold State.StationsLaw State.HoldsNothing State.Walked State.EveryRecord State.OneWaitLaw
    decide +kernel
  refine ⟨stations, ?_, ⟨stations, ?_⟩,
    (seen_next (f := fun _ => ()) (x := ()) (by decide +kernel)).imp fun _ e => e.1, busy_steps⟩
  · unfold State.StationsLaw State.HoldsNothing State.Walked State.EveryRecord State.OneWaitLaw
    decide +kernel
  · have h : ∀ i, ∀ r ∈ busyNext.record i,
        r.claimWaitersHoldNothing = true ∧ r.upgradeWaiterAtHeadOnly = true ∧ r.exclusiveAlone = true := by decide +kernel
    exact fun i r hr => ⟨(h i r hr).1, (h i r hr).2.1, (h i r hr).2.2, busy_heads i r hr⟩

end Sys2Proof.Tests
end

section
/-!
SUPPORT. One induction over the events for a law of the table: the work of each command, walk and tick that reaches the
table keeps it, so every step does.
-/

namespace Sys2Proof.Machine

/-! ### A law of the table under every event -/

/-- The states have the same records, holding counts and standing count. -/
def SameTable (s t : State) : Prop :=
  t.slots = s.slots ∧ t.holdingCounts = s.holdingCounts ∧ t.standingCount = s.standingCount

theorem SameTable.refl (s : State) : SameTable s s := ⟨rfl, rfl, rfl⟩

theorem sameTable_modifyCtx (s : State) (st : StationId) (f : Station → Station) : SameTable s (s.modifyCtx st f) :=
  ⟨rfl, rfl, rfl⟩

theorem sameTable_setPrescaler (s : State) (n : Nat) : SameTable s (s.setPrescaler n) := ⟨rfl, rfl, rfl⟩

theorem sameTable_endTurn (s : State) (st : StationId) : SameTable s (s.endTurn st) := ⟨rfl, rfl, rfl⟩

/-- A completed command leaves the table as its work left it (R123). -/
theorem sameTable_posted (s : State) (st : StationId) (r : Result) : SameTable s ((s.complete st r).endTurn st) :=
  ⟨rfl, rfl, rfl⟩

theorem attachCommand_sameTable (st : StationId) (c : Captured) (s : State) : SameTable s (attachCommand st c s).1 := by
  unfold attachCommand
  split
  · exact sameTable_modifyCtx s st _
  · exact .refl s

theorem inspectCommand_fst (st : StationId) (c : Captured) (s : State) : (inspectCommand st c s).1 = s := by
  unfold inspectCommand
  split
  · rfl
  · split
    · rfl
    · split <;> rfl

theorem stationInfoCommand_fst (st : StationId) (c : Captured) (s : State) : (stationInfoCommand st c s).1 = s := by
  unfold stationInfoCommand
  split <;> rfl

theorem listFrom_sameTable (st : StationId) (cur : Cursor) (s : State) : SameTable s (listFrom st cur s).1 := by
  unfold listFrom
  split <;> exact sameTable_modifyCtx s st _

theorem listFirstCommand_sameTable (st : StationId) (c : Captured) (s : State) :
    SameTable s (listFirstCommand st c s).1 := by
  unfold listFirstCommand
  split
  · exact .refl s
  · exact listFrom_sameTable st _ s

theorem listNextCommand_sameTable (st : StationId) (c : Captured) (s : State) :
    SameTable s (listNextCommand st c s).1 := by
  unfold listNextCommand
  split
  · exact .refl s
  · exact listFrom_sameTable st _ s

theorem configurePrescalerCommand_sameTable (st : StationId) (c : Captured) (s : State) :
    SameTable s (configurePrescalerCommand st c s).1 := ⟨rfl, rfl, rfl⟩

theorem setRunning_sameTable (s : State) (run : Bool) : SameTable s (s.setRunning run) := by
  unfold State.setRunning
  split <;> exact ⟨rfl, rfl, rfl⟩

theorem configureTickRunCommand_sameTable (st : StationId) (c : Captured) (s : State) :
    SameTable s (configureTickRunCommand st c s).1 := by
  unfold configureTickRunCommand
  split
  · exact .refl s
  · exact setRunning_sameTable s _

theorem configureDefaultsCommand_sameTable (st : StationId) (c : Captured) (s : State) :
    SameTable s (configureDefaultsCommand st c s).1 := by
  unfold configureDefaultsCommand
  split
  · exact .refl s
  · exact ⟨rfl, rfl, rfl⟩

/-- No access reaches the table (R91, R127). -/
theorem busRead_sameTable (st : StationId) (off : Offset) (s : State) : SameTable s (busRead st off s) := by
  have heffect : SameTable s (readEffect s st off) := by
    unfold readEffect
    split_ifs <;> exact ⟨rfl, rfl, rfl⟩
  exact heffect

theorem commandWrite_sameTable (s : State) (st : StationId) (code : Byte) : SameTable s (commandWrite s st code) := by
  unfold commandWrite
  split_ifs <;> exact sameTable_modifyCtx s st _

theorem busWrite_sameTable (st : StationId) (off : Offset) (v : Byte) (s : State) : SameTable s (busWrite st off v s) := by
  have heffect : SameTable s (writeEffect s st off v) := by
    unfold writeEffect
    split_ifs
    case pos => exact sameTable_modifyCtx s st _
    case pos => exact commandWrite_sameTable s st v
    all_goals exact sameTable_modifyCtx s st _
  exact heffect

/-- The property is one of the table alone, it holds at reset, and each piece of work that reaches the table keeps it. -/
structure KeptByTableWork (P : State → Prop) : Prop where
  congr : ∀ {s t : State}, SameTable s t → P s → P t
  atReset : P State.reset
  claim : ∀ (st : StationId) (c : Captured) (s : State), P s → P (claimCommand st c s).1
  release : ∀ (st : StationId) (c : Captured) (s : State), P s → P (releaseCommand st c s).1
  downgrade : ∀ (st : StationId) (c : Captured) (s : State), P s → P (downgradeCommand st c s).1
  upgrade : ∀ (st : StationId) (c : Captured) (s : State), P s → P (upgradeCommand st c s).1
  renew : ∀ (st : StationId) (c : Captured) (s : State), P s → P (renewCommand st c s).1
  clearTaint : ∀ (st : StationId) (c : Captured) (s : State), P s → P (clearTaintCommand st c s).1
  define : ∀ (st : StationId) (c : Captured) (s : State), P s → P (defineCommand st c s).1
  amend : ∀ (st : StationId) (c : Captured) (s : State), P s → P (amendCommand st c s).1
  retire : ∀ (st : StationId) (c : Captured) (s : State), P s → P (retireCommand st c s).1
  configureClass : ∀ (st : StationId) (c : Captured) (s : State), P s → P (configureClassCommand st c s).1
  endWait : ∀ (st : StationId) (s : State), P s → P (s.endWait st)
  walkEffect : ∀ (w : Walk) (s : State), P s → P (walkEffect w s).1
  tickTable : ∀ s : State, P s → P s.tickTable

/-- What a state has and its event keeps, the event keeps under RESET also, where it does nothing (R183). -/
theorem unlessReset_keeps {P : State → Prop} {s t : State} {f : State → State} (hs : P s) (hf : P (f s))
    (h : unlessReset s f = .next t) : P t := by
  rw [unlessReset_next] at h
  obtain rfl := Host.Outcome.next.inj h
  split
  · exact hs
  · exact hf

namespace KeptByTableWork

variable {P : State → Prop} (hP : KeptByTableWork P) {s t : State}
include hP

theorem commandTurn {st : StationId} {cmd : Command} {mine : Captured → Bool} {own : Captured → State → State}
    (hs : P s) (hown : ∀ c, P (own c s)) : P (commandTurn st cmd mine own s) := by
  rcases commandTurn_cases st cmd mine own s with e | ⟨c, code, -, -, -, -, e⟩ | ⟨c, -, -, -, -, e⟩
  · rw [e]; exact hs
  · rw [e]; exact hP.congr (sameTable_posted s st _) hs
  · rw [e]; exact hP.congr (sameTable_endTurn _ st) (hown c)

theorem ordinaryTurn {st : StationId} {cmd : Command} {mine : Captured → Bool}
    {own : Captured → State → State × Result} (hs : P s) (hown : ∀ c, P (own c s).1) :
    P (ordinaryTurn st cmd mine own s) :=
  hP.commandTurn hs fun c => hP.congr (sameTable_modifyCtx _ st _) (hown c)

/-- The row of an ordinary command. -/
theorem ordinaryRow {st : StationId} {cmd : Command} {mine : Captured → Bool}
    {own : Captured → State → State × Result} (hs : P s) (hown : ∀ c, P (own c s).1)
    (h : Machine.unlessReset s (Machine.ordinaryTurn st cmd mine own) = .next t) : P t :=
  unlessReset_keeps hs (hP.ordinaryTurn hs hown) h

theorem walkStep (st : StationId) (c : Captured) (w : Walk) (hs : P s) : P (walkStep st c w s) := by
  have heffect := hP.walkEffect w s hs
  unfold Machine.walkStep
  dsimp only
  split
  · exact hP.congr (s := (Machine.walkEffect w s).1) ⟨rfl, rfl, rfl⟩ heffect
  · exact hP.congr (s := (Machine.walkEffect w s).1) ⟨rfl, rfl, rfl⟩ heffect

theorem laterTurn (kind : WalkKind) (st : StationId) (hs : P s) : P (laterTurn kind st s) := by
  unfold Machine.laterTurn
  split
  · exact hs
  · split
    · exact hP.congr (sameTable_endTurn _ st) (hP.walkStep st _ _ hs)
    · exact hs

theorem detachFirstTurn (st : StationId) (c : Captured) (hs : P s) : P (detachFirstTurn st c s) := by
  have hdetaching : P (s.setLife st .detaching) := hP.congr (sameTable_modifyCtx s st _) hs
  exact hP.walkStep st c _ (hP.congr (sameTable_modifyCtx _ st _) (hP.endWait st _ hdetaching))

theorem purgeCommand (st : StationId) (c : Captured) (hs : P s) : P (purgeCommand st c s) := by
  unfold Machine.purgeCommand
  split
  · exact hP.congr (sameTable_modifyCtx s st _) hs
  · next target _ =>
    split
    · have hpurged : P (s.modifyCtx target Station.purged) := hP.congr (sameTable_modifyCtx s target _) hs
      exact hP.walkStep st c _ (hP.congr (sameTable_modifyCtx _ target _) (hP.endWait target _ hpurged))
    · exact hP.congr (sameTable_modifyCtx s st _) hs

theorem cancelCommand (st : StationId) (c : Captured) (hs : P s) : P (cancelCommand st c s).1 := by
  unfold Machine.cancelCommand
  split
  · exact hP.endWait st s hs
  · exact hs

theorem badCommandTurn (st : StationId) (hs : P s) : P (badCommandTurn st s) := by
  unfold Machine.badCommandTurn
  split
  · exact hs
  · split
    · exact hP.congr (sameTable_posted s st _) hs
    · exact hs

theorem tick (hs : P s) : P s.tick := hP.tickTable _ (hP.congr (sameTable_setPrescaler s 0) hs)

theorem nextTick (hs : P s) : P s.nextTick := by
  unfold State.nextTick
  split
  · exact hP.tick hs
  · exact hs

theorem clockPeriod (hs : P s) : P s.clockPeriod := by
  unfold State.clockPeriod
  split
  · split
    · exact hP.tick hs
    · exact hP.congr (sameTable_setPrescaler s _) hs
  · exact hs

/-- Every command keeps what all work on the table keeps. -/
theorem exec {i : Instr} (hs : P s) (h : exec i s = .next t) : P t := by
  cases i with
  | attach st => exact hP.ordinaryRow hs (fun c => hP.congr (attachCommand_sameTable st c s) hs) h
  | detach st => exact unlessReset_keeps hs (hP.commandTurn hs fun c => hP.detachFirstTurn st c hs) h
  | detachWalkStep st => exact unlessReset_keeps hs (hP.laterTurn .detach st hs) h
  | claim st => exact hP.ordinaryRow hs (fun c => hP.claim st c s hs) h
  | release st => exact hP.ordinaryRow hs (fun c => hP.release st c s hs) h
  | downgrade st => exact hP.ordinaryRow hs (fun c => hP.downgrade st c s hs) h
  | upgrade st => exact hP.ordinaryRow hs (fun c => hP.upgrade st c s hs) h
  | renew st => exact hP.ordinaryRow hs (fun c => hP.renew st c s hs) h
  | cancel st => exact hP.ordinaryRow hs (fun c => hP.cancelCommand st c hs) h
  | clearTaint st => exact hP.ordinaryRow hs (fun c => hP.clearTaint st c s hs) h
  | inspect st => exact hP.ordinaryRow hs (fun c => (inspectCommand_fst st c s).symm ▸ hs) h
  | listFirst st => exact hP.ordinaryRow hs (fun c => hP.congr (listFirstCommand_sameTable st c s) hs) h
  | listNext st => exact hP.ordinaryRow hs (fun c => hP.congr (listNextCommand_sameTable st c s) hs) h
  | stationInfo st => exact hP.ordinaryRow hs (fun c => (stationInfoCommand_fst st c s).symm ▸ hs) h
  | define st => exact hP.ordinaryRow hs (fun c => hP.define st c s hs) h
  | amend st => exact hP.ordinaryRow hs (fun c => hP.amend st c s hs) h
  | retire st => exact hP.ordinaryRow hs (fun c => hP.retire st c s hs) h
  | configureClass st => exact hP.ordinaryRow hs (fun c => hP.configureClass st c s hs) h
  | configurePrescaler st => exact hP.ordinaryRow hs (fun c => hP.congr (configurePrescalerCommand_sameTable st c s) hs) h
  | configureTickRun st => exact hP.ordinaryRow hs (fun c => hP.congr (configureTickRunCommand_sameTable st c s) hs) h
  | configureDefaults st => exact hP.ordinaryRow hs (fun c => hP.congr (configureDefaultsCommand_sameTable st c s) hs) h
  | purge st => exact unlessReset_keeps hs (hP.commandTurn hs fun c => hP.purgeCommand st c hs) h
  | purgeWalkStep st => exact unlessReset_keeps hs (hP.laterTurn .purge st hs) h
  | badCommand st => exact unlessReset_keeps hs (hP.badCommandTurn st hs) h
  | leaseTick => exact unlessReset_keeps hs (hP.nextTick hs) h
  | leaseExpiry st i =>
    refine unlessReset_keeps hs ?_ h
    split
    · exact hP.nextTick hs
    · exact hs
  | waitTimeOut st =>
    refine unlessReset_keeps hs ?_ h
    split
    · exact hP.nextTick hs
    · exact hs
  | resultRead st => exact unlessReset_keeps hs (hP.congr (busRead_sameTable st _ s) hs) h
  | statusRead st => exact unlessReset_keeps hs (hP.congr (busRead_sameTable st _ s) hs) h
  | noticeTake st => exact unlessReset_keeps hs (hP.congr (busRead_sameTable st _ s) hs) h
  | maskSet st v => exact unlessReset_keeps hs (hP.congr (busWrite_sameTable st _ v s) hs) h
  | maskClear st v => exact unlessReset_keeps hs (hP.congr (busWrite_sameTable st _ v s) hs) h
  | faultCauseWrite st v => exact unlessReset_keeps hs (hP.congr (busWrite_sameTable st _ v s) hs) h
  | unassignedOffset st off written =>
    refine unlessReset_keeps hs ?_ h
    cases written with
    | none => exact hP.congr (busRead_sameTable st off s) hs
    | some v => exact hP.congr (busWrite_sameTable st off v s) hs
  | windowWrite st off v => exact unlessReset_keeps hs (hP.congr (busWrite_sameTable st off v s) hs) h
  | reset high =>
    obtain rfl := Host.Outcome.next.inj h
    split
    · exact hP.congr (s := State.reset) ⟨rfl, rfl, rfl⟩ hP.atReset
    · exact hP.congr (s := s) ⟨rfl, rfl, rfl⟩ hs

/-- Every step keeps what all work on the table keeps. -/
theorem step (hs : P s) (h : step s = .next t) : P t := by
  unfold Machine.step at h
  split at h
  · exact unlessReset_keeps hs (hP.clockPeriod hs) h
  · next rest _ =>
    have htaken : P { s with pending := rest } := hP.congr (s := s) ⟨rfl, rfl, rfl⟩ hs
    exact hP.exec htaken h

end KeptByTableWork

end Sys2Proof.Machine
end

section
/-!
SUPPORT. R39: the modes held decide whether a head is grantable, so an event leaves a head held back by leaving the modes
held, or ends with a run of the grant rule. With it, O54.
-/

namespace Sys2Proof.Machine

/-! ### Records found by name -/

/-- What the lookup finds stands in its slot, whatever other records share the name. -/
theorem State.record_of_lookup {s : State} {n : LockName} {i : SlotId} {r : Record} (h : s.lookup n = some (i, r)) :
    s.record i = some r := by
  unfold State.lookup at h
  split at h
  · exact absurd h (by simp)
  · obtain ⟨j, hj, -⟩ := (findSome_finRange_eq_some _ _).mp h
    cases hr : s.record j with
    | none => simp [hr] at hj
    | some q =>
      simp only [hr, Option.ite_none_right_eq_some, Option.some.injEq, Prod.mk.injEq] at hj
      obtain ⟨-, rfl, rfl⟩ := hj
      exact hr

theorem State.record_of_holdingUnder {s : State} {a : StationId} {n : LockName} {i : SlotId} {r : Record} {h : Holding}
    (hu : s.holdingUnder a n = some (i, r, h)) : s.record i = some r ∧ r.holding a = some h := by
  unfold State.holdingUnder at hu
  cases hl : s.lookup n with
  | none => simp [hl] at hu
  | some x =>
    simp only [hl, Option.map_eq_some_iff, Prod.mk.injEq] at hu
    obtain ⟨g, hg, rfl, rfl, rfl⟩ := hu
    exact ⟨State.record_of_lookup hl, hg⟩

/-! ### Laws of every record -/

/-- A law of every record is one of the slots alone. -/
theorem State.EveryRecord.congr {p : Record → Prop} {s t : State} (hs : s.EveryRecord p) (h : t.slots = s.slots) :
    t.EveryRecord p := by
  intro i r hr
  unfold State.record at hr
  rw [h] at hr
  exact hs i r hr

theorem everyRecord_reset (p : Record → Prop) : State.reset.EveryRecord p := by
  intro i r hr
  simp [State.record, State.reset] at hr

theorem State.EveryRecord.setRecord {p : Record → Prop} {s : State} (hs : s.EveryRecord p) (i : SlotId)
    {o : Option Record} (ho : ∀ r ∈ o, p r) : (s.setRecord i o).EveryRecord p := by
  intro j r hr
  rw [State.record_setRecord] at hr
  split at hr
  · exact ho r hr
  · exact hs j r hr

/-! ### Whether a head is grantable depends on the modes held -/

/-- Each station holds both records in the same mode, or neither. -/
def SameModes (r r' : Record) : Prop := ∀ a, (r'.holding a).map (·.mode) = (r.holding a).map (·.mode)

theorem SameModes.holding_eq_none {r r' : Record} (h : SameModes r r') (a : StationId) :
    r'.holding a = none ↔ r.holding a = none := by
  have ha := h a
  rw [← Option.map_eq_none_iff (f := fun g : Holding => g.mode), ha, Option.map_eq_none_iff]

theorem SameModes.noHolder {r r' : Record} (h : SameModes r r') : r'.NoHolder ↔ r.NoHolder :=
  forall_congr' h.holding_eq_none

theorem SameModes.onlyHolder {r r' : Record} (h : SameModes r r') (a : StationId) : r'.OnlyHolder a ↔ r.OnlyHolder a :=
  and_congr (not_congr (h.holding_eq_none a)) (forall_congr' fun b => imp_congr_right fun _ => h.holding_eq_none b)

theorem SameModes.noExclusiveHolder {r r' : Record} (h : SameModes r r') :
    r'.NoExclusiveHolder ↔ r.NoExclusiveHolder := by
  have hmode (q : Record) : q.NoExclusiveHolder ↔ ∀ a, ∀ m ∈ (q.holding a).map (·.mode), m ≠ .exclusive := by
    simp [Record.NoExclusiveHolder]
  rw [hmode, hmode]
  exact forall_congr' fun a => by rw [h a]

/-- The test of R36 reads the modes held, and the station and the request of the entry. -/
theorem SameModes.headGrantable {r r' : Record} (h : SameModes r r') {w w' : Waiter} (hst : w'.station = w.station)
    (hreq : w'.request = w.request) : r'.HeadGrantable w' ↔ r.HeadGrantable w := by
  unfold Record.HeadGrantable
  rw [hreq, hst]
  cases w.request with
  | exclusive => exact h.noHolder
  | shared => exact h.noExclusiveHolder
  | upgrade => exact h.onlyHolder w.station

theorem sameModes_setHolding {r : Record} {a : StationId} {h g : Holding} (hh : r.holding a = some h)
    (hm : g.mode = h.mode) : SameModes r (r.setHolding a (some g)) := by
  intro b
  rw [Record.holding_setHolding]
  split
  · next e => rw [e, hh, Option.map_some, Option.map_some, hm]
  · rfl

theorem sameModes_refit (r : Record) (length : Byte) : SameModes r (r.refit length) := by
  intro a
  unfold Record.refit
  rw [Record.holding_mapHoldings]
  cases r.holding a <;> rfl

/-! ### A head that is held back -/

theorem headHeldBack_of_queue_nil {r : Record} (h : r.queue = []) : r.HeadHeldBack := by
  intro w hw
  simp [h] at hw

/-- A queue whose head is not grantable is held back, whatever stands behind. -/
theorem headHeldBack_of_cons {r : Record} {w : Waiter} {ws : List Waiter} (hq : r.queue = w :: ws)
    (h : ¬ r.HeadGrantable w) : r.HeadHeldBack := by
  intro v hv
  rw [hq] at hv
  obtain rfl := Option.some.inj hv
  exact h

theorem Record.HeadHeldBack.of_cons {r : Record} (h : r.HeadHeldBack) {w : Waiter} {ws : List Waiter}
    (hq : r.queue = w :: ws) : ¬ r.HeadGrantable w := h w (by rw [hq]; rfl)

/-- A head stays held back while the modes held stay and the queue stays. -/
theorem Record.HeadHeldBack.of_sameModes {r r' : Record} (h : r.HeadHeldBack) (hm : SameModes r r')
    (hq : r'.queue = r.queue) : r'.HeadHeldBack := by
  intro w hw
  rw [hq] at hw
  exact fun hg => h w hw ((hm.headGrantable rfl rfl).mp hg)

/-- A head that was held back stays so when a holder's mode becomes EXCLUSIVE (R48). -/
theorem Record.HeadHeldBack.of_exclusive {r : Record} (h : r.HeadHeldBack) {a : StationId} {g g' : Holding}
    (hg : r.holding a = some g) (hm : g'.mode = .exclusive) : (r.setHolding a (some g')).HeadHeldBack := by
  have hheld (b : StationId) : (r.setHolding a (some g')).holding b = none ↔ r.holding b = none := by
    rw [Record.holding_setHolding]
    split
    · next e => simp [e, hg]
    · rfl
  intro w hw hgrant
  refine h w hw ?_
  unfold Record.HeadGrantable at *
  cases hreq : w.request with
  | exclusive =>
    rw [hreq] at hgrant
    exact fun b => (hheld b).mp (hgrant b)
  | shared =>
    rw [hreq] at hgrant
    exact absurd hm (hgrant a g' (by simp))
  | upgrade =>
    rw [hreq] at hgrant
    obtain ⟨hself, hothers⟩ := hgrant
    exact ⟨fun e => hself ((hheld _).mpr e), fun b hb => (hheld b).mp (hothers b hb)⟩

/-! ### The events that run the grant rule -/

/-- After a record is settled no record has a grantable head, whatever head the settled one had (R39). -/
theorem settle_headsHeldBack {s : State} {i : SlotId}
    (h : ∀ j, j ≠ i → ∀ r ∈ s.record j, r.HeadHeldBack) : (s.settle i).EveryRecord Record.HeadHeldBack := by
  intro j r hr
  by_cases hj : j = i
  · subst hj
    cases hrec : s.record j with
    | none =>
      rw [s.settle_none j hrec, hrec] at hr
      exact absurd hr (by simp)
    | some q =>
      rw [s.record_settle_mem j q r hrec hr]
      exact (settleRun_spec s q).headHeldBack
  · rw [s.record_settle_ne i j hj] at hr
    exact h j hj r hr

/-- A record may be changed in any way before it is settled. -/
theorem settle_setRecord_headsHeldBack {s : State} (hs : s.EveryRecord Record.HeadHeldBack) (i : SlotId)
    (o : Option Record) : ((s.setRecord i o).settle i).EveryRecord Record.HeadHeldBack := by
  refine settle_headsHeldBack fun j hj r hr => hs j r ?_
  rwa [s.record_setRecord_ne i j o hj] at hr

theorem settle_dropHolding_headsHeldBack {s : State} (hs : s.EveryRecord Record.HeadHeldBack) (i : SlotId) (r : Record)
    (st : StationId) : ((s.dropHolding i r st).settle i).EveryRecord Record.HeadHeldBack := by
  refine settle_headsHeldBack fun j hj q hq => hs j q ?_
  have hrec : (s.dropHolding i r st).record j = s.record j := s.record_setRecord_ne i j _ hj
  rwa [hrec] at hq

theorem endWait_headsHeldBack (st : StationId) {s : State} (hs : s.EveryRecord Record.HeadHeldBack) :
    (s.endWait st).EveryRecord Record.HeadHeldBack := by
  unfold State.endWait
  split
  · exact hs
  · exact settle_setRecord_headsHeldBack hs _ _

theorem walkEffect_headsHeldBack (w : Walk) {s : State} (hs : s.EveryRecord Record.HeadHeldBack) :
    (walkEffect w s).1.EveryRecord Record.HeadHeldBack := by
  unfold walkEffect
  split
  · exact hs
  · split
    · exact hs
    · exact settle_dropHolding_headsHeldBack hs _ _ _

theorem storeAmended_headsHeldBack {s : State} (hs : s.EveryRecord Record.HeadHeldBack) (i : SlotId) (r : Record) :
    (s.storeAmended i r).EveryRecord Record.HeadHeldBack := by
  have hstored (o : Option Record) (ns : List (StationId × Notice)) (j : SlotId) (hj : j ≠ i) :
      ((s.setRecord i o).queueNotices ns).record j = s.record j := by
    unfold State.record
    rw [State.queueNotices_slots]
    exact s.record_setRecord_ne i j o hj
  refine settle_headsHeldBack fun j hj q hq => hs j q ?_
  rwa [hstored _ _ j hj] at hq

/-! ### The lease tick -/

/-- A tick that removes no holding of the record leaves the modes held (R79). -/
theorem sameModes_ticked {r : Record} (h : r.tickRemoves = false) : SameModes r r.ticked := by
  intro a
  have hnot : ¬ r.Expiring a := fun he =>
    absurd ((r.tickRemoves_iff).mpr (.inl ⟨a, he⟩)) (by simp [h])
  rw [Record.holding_ticked]
  cases hh : r.holding a with
  | none => rfl
  | some g =>
    have hg : g.expires = false := by
      rw [← Bool.not_eq_true, Holding.expires_iff]
      exact fun he => hnot ⟨g, hh, he⟩
    simp [Holding.ticked, hg]

/-- A tick that ends no wait of the record lowers deadlines alone (R55). -/
theorem tickedQueue_eq_map {r : Record} (h : r.tickRemoves = false) :
    r.tickedQueue = r.queue.map fun w => { w with deadline := w.deadline.ticked } := by
  unfold Record.tickedQueue
  rw [← List.filterMap_eq_map]
  refine List.filterMap_congr fun w hw => ?_
  have hnone : r.waiterEnd w = none := by
    rw [← r.endedNotice_eq]
    by_contra hne
    exact absurd ((r.tickRemoves_iff).mpr (.inr ⟨w, hw, hne⟩)) (by simp [h])
  simp [hnone]

theorem ticked_headHeldBack {r : Record} (hr : r.HeadHeldBack) (h : r.tickRemoves = false) : r.ticked.HeadHeldBack := by
  cases hq : r.queue with
  | nil => exact headHeldBack_of_queue_nil (by rw [Record.ticked_queue, tickedQueue_eq_map h, hq]; rfl)
  | cons w ws =>
    refine headHeldBack_of_cons (by rw [Record.ticked_queue, tickedQueue_eq_map h, hq]; rfl) fun hg => ?_
    exact hr.of_cons hq (((sameModes_ticked h).headGrantable rfl rfl).mp hg)

theorem afterTick_headHeldBack {r r' : Record} {full : Option Nat} (hr : r.HeadHeldBack)
    (h : r.afterTick full = some r') : r'.HeadHeldBack := by
  unfold Record.afterTick at h
  split at h
  · simp only [Option.ite_none_left_eq_some, Option.some.injEq] at h
    obtain ⟨-, rfl⟩ := h
    exact (grantRun_spec full r.ticked.queue r.ticked).headHeldBack
  · next hremoves =>
    obtain rfl := Option.some.inj h
    exact ticked_headHeldBack hr (by simpa using hremoves)

theorem tickTable_headsHeldBack {s : State} (hs : s.EveryRecord Record.HeadHeldBack) :
    s.tickTable.EveryRecord Record.HeadHeldBack := by
  intro i r' hr'
  rw [State.record_tickTable] at hr'
  obtain ⟨r, hr, hafter⟩ := Option.bind_eq_some_iff.mp hr'
  exact afterTick_headHeldBack (hs i r hr) hafter

/-! ### The commands -/

section Commands

variable {s : State} (hs : s.EveryRecord Record.HeadHeldBack) (st : StationId) (c : Captured)
include hs

/-- A holding changed in its depth and lease alone leaves every head as it was. -/
theorem setHolding_headsHeldBack {i : SlotId} {r : Record} {h g : Holding} (hr : s.record i = some r)
    (hh : r.holding st = some h) (hm : g.mode = h.mode) :
    (s.setRecord i (some (r.setHolding st (some g)))).EveryRecord Record.HeadHeldBack := by
  refine hs.setRecord i fun q hq => ?_
  obtain rfl := Option.some.inj hq
  exact (hs i r hr).of_sameModes (sameModes_setHolding hh hm) rfl

/-- A grant to a claim whose record has no queue leaves no head. -/
theorem grantAtOnce_headsHeldBack {i : SlotId} {r : Record} (hq : r.queue = []) (m : Mode) :
    (s.grantAtOnce i r st m).EveryRecord Record.HeadHeldBack := by
  refine State.EveryRecord.congr (s := s.setRecord i _) (hs.setRecord i fun q hq' => ?_) rfl
  obtain rfl := Option.some.inj hq'
  exact headHeldBack_of_queue_nil hq

theorem claimAbsent_headsHeldBack (n : LockName) (m : Mode) :
    (claimAbsent s st n m).1.EveryRecord Record.HeadHeldBack := by
  unfold claimAbsent
  split
  · exact hs
  · split_ifs
    · exact hs
    · exact hs
    · exact grantAtOnce_headsHeldBack hs st rfl m

theorem claimHeld_headsHeldBack (m : Mode) {i : SlotId} {r : Record} {h : Holding} (hr : s.record i = some r)
    (hh : r.holding st = some h) : (claimHeld s st m i r h).1.EveryRecord Record.HeadHeldBack := by
  unfold claimHeld
  split_ifs
  · exact hs
  · exact hs
  · exact setHolding_headsHeldBack hs st hr hh rfl

omit hs in
/-- A claim that is not grantable now, at the tail of the queue, leaves no grantable head (R32, R36). -/
theorem headHeldBack_append {r : Record} (hr : r.HeadHeldBack) {m : Mode} (hm : r.grantableNow m = false)
    (d : Deadline) : ({ r with queue := r.queue ++ [⟨st, Request.ofMode m, d⟩] } : Record).HeadHeldBack := by
  cases hq : r.queue with
  | cons w ws => exact headHeldBack_of_cons rfl (hr.of_cons hq)
  | nil =>
    refine headHeldBack_of_cons rfl fun hg => ?_
    have hnow : r.GrantableNow m := by
      cases m with
      | shared => exact ⟨hq, by simp, fun _ => hg⟩
      | exclusive => exact ⟨hq, fun _ => hg, by simp⟩
    rw [(r.grantableNow_iff m).mpr hnow] at hm
    exact absurd hm (by simp)

theorem claimNew_headsHeldBack (m : Mode) (limit : Byte) {i : SlotId} {r : Record} (hr : s.record i = some r) :
    (claimNew s st m limit i r).1.EveryRecord Record.HeadHeldBack := by
  unfold claimNew
  split
  · exact hs
  · split
    · next hnow => exact grantAtOnce_headsHeldBack hs st ((r.grantableNow_iff m).mp hnow).1 m
    · next hnow =>
      split
      · exact hs
      · split
        · exact hs
        · refine hs.setRecord i fun q hq => ?_
          obtain rfl := Option.some.inj hq
          exact headHeldBack_append st (hs i r hr) (by simpa using hnow) _

theorem claimCommand_headsHeldBack : (claimCommand st c s).1.EveryRecord Record.HeadHeldBack := by
  unfold claimCommand
  split
  · exact hs
  · next m _ =>
    split
    · exact hs
    · split
      · exact claimAbsent_headsHeldBack hs st _ m
      · next i r hl =>
        have hr := State.record_of_lookup hl
        split_ifs
        · exact hs
        · exact hs
        · split
          · next h hh => exact claimHeld_headsHeldBack hs st m hr hh
          · exact claimNew_headsHeldBack hs st m c.s3 hr

theorem releaseCommand_headsHeldBack : (releaseCommand st c s).1.EveryRecord Record.HeadHeldBack := by
  unfold releaseCommand
  split
  · exact hs
  · split
    · exact hs
    · next i r h hu =>
      obtain ⟨hr, hh⟩ := State.record_of_holdingUnder hu
      split_ifs
      · exact hs
      · exact settle_dropHolding_headsHeldBack hs i r st
      · exact setHolding_headsHeldBack hs st hr hh rfl

theorem downgradeCommand_headsHeldBack : (downgradeCommand st c s).1.EveryRecord Record.HeadHeldBack := by
  unfold downgradeCommand
  split
  · exact hs
  · split
    · exact hs
    · split_ifs
      · exact hs
      · exact hs
      · exact settle_setRecord_headsHeldBack hs _ _

/-- An upgrade takes effect only for the only holder, and else waits at the head, where it is not grantable for the
holders beside it (R48, R53). -/
theorem upgradeCommand_headsHeldBack : (upgradeCommand st c s).1.EveryRecord Record.HeadHeldBack := by
  unfold upgradeCommand
  split
  · exact hs
  · split
    · exact hs
    · next i r h hu =>
      obtain ⟨hr, hh⟩ := State.record_of_holdingUnder hu
      split
      · exact hs
      · split
        · exact hs
        · split
          · refine hs.setRecord i fun q hq => ?_
            obtain rfl := Option.some.inj hq
            exact (hs i r hr).of_exclusive hh rfl
          · next hsole =>
            split
            · exact hs
            · split
              · exact hs
              · refine hs.setRecord i fun q hq => ?_
                obtain rfl := Option.some.inj hq
                exact headHeldBack_of_cons rfl fun hg => hsole ((r.soleHolder_iff st).mpr hg)

theorem renewCommand_headsHeldBack : (renewCommand st c s).1.EveryRecord Record.HeadHeldBack := by
  unfold renewCommand
  split
  · exact hs
  · split
    · exact hs
    · next i r h hu =>
      obtain ⟨hr, hh⟩ := State.record_of_holdingUnder hu
      exact setHolding_headsHeldBack hs st hr hh rfl

theorem clearTaintCommand_headsHeldBack : (clearTaintCommand st c s).1.EveryRecord Record.HeadHeldBack := by
  unfold clearTaintCommand
  split
  · exact hs
  · split
    · exact hs
    · next i r h hu =>
      obtain ⟨hr, -⟩ := State.record_of_holdingUnder hu
      split
      · exact hs
      · refine hs.setRecord i fun q hq => ?_
        obtain rfl := Option.some.inj hq
        exact (hs i r hr).of_sameModes (fun _ => rfl) rfl

theorem defineAbsent_headsHeldBack (n : LockName) (a : Attributes) :
    (defineAbsent n a s).1.EveryRecord Record.HeadHeldBack := by
  unfold defineAbsent
  split
  · exact hs
  · split
    · exact hs
    · refine State.EveryRecord.congr (s := s.setRecord _ _) (hs.setRecord _ fun q hq => ?_) rfl
      obtain rfl := Option.some.inj hq
      exact headHeldBack_of_queue_nil rfl

theorem defineCommand_headsHeldBack : (defineCommand st c s).1.EveryRecord Record.HeadHeldBack := by
  unfold defineCommand
  split
  · exact hs
  · split
    · exact hs
    · split
      · exact defineAbsent_headsHeldBack hs _ _
      · split_ifs
        · exact hs
        · exact hs
        · exact hs
        · exact storeAmended_headsHeldBack (hs.congr (s.setStandingCount_slots _)) _ _

theorem amendCommand_headsHeldBack : (amendCommand st c s).1.EveryRecord Record.HeadHeldBack := by
  unfold amendCommand
  split
  · exact hs
  · split
    · exact hs
    · split
      · exact hs
      · split_ifs
        · exact hs
        · exact hs
        · exact storeAmended_headsHeldBack hs _ _

theorem retireCommand_headsHeldBack : (retireCommand st c s).1.EveryRecord Record.HeadHeldBack := by
  unfold retireCommand
  split
  · exact hs
  · split
    · exact hs
    · split
      · exact hs
      · exact State.EveryRecord.congr (s := s.setRecord _ none) (hs.setRecord _ fun _ hr => absurd hr (by simp)) rfl

omit hs in
theorem refitSlot_headsHeldBack (k : ClassId) (length : Byte) (u : State) (i : SlotId)
    (hu : u.EveryRecord Record.HeadHeldBack) : (u.refitSlot k length i).EveryRecord Record.HeadHeldBack := by
  unfold State.refitSlot
  split
  · exact hu
  · next r hr =>
    split
    · refine hu.setRecord i fun q hq => ?_
      obtain rfl := Option.some.inj hq
      exact (hu i r hr).of_sameModes (sameModes_refit r length) rfl
    · exact hu

theorem configureClassCommand_headsHeldBack : (configureClassCommand st c s).1.EveryRecord Record.HeadHeldBack := by
  unfold configureClassCommand
  split
  · next k e _ _ =>
    dsimp only
    exact foldl_holds (State.refitSlot k e.length) (fun u => u.EveryRecord Record.HeadHeldBack)
      (refitSlot_headsHeldBack k e.length) allSlots _ (hs.congr (s.setClass_slots k e))
  · exact hs

end Commands

/-- All work on the table keeps R39. -/
theorem headsHeldBack_kept : KeptByTableWork fun s => s.EveryRecord Record.HeadHeldBack where
  congr h hs := hs.congr h.1
  atReset := everyRecord_reset _
  claim st c _ hs := claimCommand_headsHeldBack hs st c
  release st c _ hs := releaseCommand_headsHeldBack hs st c
  downgrade st c _ hs := downgradeCommand_headsHeldBack hs st c
  upgrade st c _ hs := upgradeCommand_headsHeldBack hs st c
  renew st c _ hs := renewCommand_headsHeldBack hs st c
  clearTaint st c _ hs := clearTaintCommand_headsHeldBack hs st c
  define st c _ hs := defineCommand_headsHeldBack hs st c
  amend st c _ hs := amendCommand_headsHeldBack hs st c
  retire st c _ hs := retireCommand_headsHeldBack hs st c
  configureClass st c _ hs := configureClassCommand_headsHeldBack hs st c
  endWait st _ hs := endWait_headsHeldBack st hs
  walkEffect w _ hs := walkEffect_headsHeldBack w hs
  tickTable _ hs := tickTable_headsHeldBack hs

/-- Without holders every entry but an upgrade's is grantable, and an upgrade's own station is a holder (R6, R36). -/
theorem queue_eq_nil_of_noHolder {r : Record} (hr : r.HeadHeldBack) (hup : r.upgradeWaiterAtHeadOnly = true)
    (hno : r.NoHolder) : r.queue = [] := by
  cases hq : r.queue with
  | nil => rfl
  | cons w ws =>
    refine absurd ?_ (hr.of_cons hq)
    unfold Record.HeadGrantable
    cases hreq : w.request with
    | exclusive => exact hno
    | shared =>
      intro a h hh
      rw [hno a] at hh
      exact absurd hh (by simp)
    | upgrade =>
      have hholds : (r.holding w.station).any (·.mode == .shared) = true := by
        simp only [Record.upgradeWaiterAtHeadOnly, hq, List.all_cons, hreq, Bool.and_eq_true] at hup
        simpa using hup.1.1
      rw [hno w.station] at hholds
      exact absurd hholds (by simp)

/-- Settles O54: each step's work leaves a head untouched with the modes held, or ends with a run of the grant rule. -/
theorem noGrantableHeadKept : Obligations.NoGrantableHeadKept :=
  ⟨fun _ _ hs h => headsHeldBack_kept.step hs h, fun _ hr hup hno => queue_eq_nil_of_noHolder hr hup hno⟩

end Sys2Proof.Machine
end

section
/-!
SUPPORT. UPGRADE by the only holder, RELEASE and DOWNGRADE, branch by branch of their tables of checks. With it, O19, O22
and O23.
-/

namespace Sys2Proof.Machine

/-! ### The tables of checks -/

/-- A row that applies decides. -/
theorem FirstApplies.here {p : Prop} {code : ResultCode} {rest : List (Prop × ResultCode)} (h : p) :
    FirstApplies ((p, code) :: rest) code := .inl ⟨h, rfl⟩

/-- A row that does not apply leaves the rest to decide. -/
theorem FirstApplies.skip {p : Prop} {code first : ResultCode} {rest : List (Prop × ResultCode)} (h : ¬ p)
    (hrest : FirstApplies rest code) : FirstApplies ((p, first) :: rest) code := .inr ⟨h, hrest⟩

/-- The code that a turn posts is the code of its result. -/
theorem posted_code {P : ResultCode → Prop} {a : Answer} {x : State × Result} {st : StationId}
    (ha : a = posted x.1 st x.2) (hp : P x.2.code) : ∃ t, a = .next t ∧ P (t.ctx st).result.code :=
  ⟨_, ha, by rwa [posted_result]⟩

section Holder

variable {s : State} {st : StationId} {c : Captured} {i : SlotId} {r : Record} {h : Holding}

/-! ### UPGRADE by the only holder -/

/-- An upgrade of a shared holding by the only holder makes it EXCLUSIVE and reloads its lease (R48). -/
theorem upgradeCommand_of_onlyHolder (hN : s.NamesLaw) (hn : s.Named c.name i r) (hh : r.holding st = some h)
    (hm : h.mode = .shared) (hp : r.attrs.permits st = true) (ho : r.OnlyHolder st) :
    upgradeCommand st c s =
      (s.setRecord i (some (r.setHolding st (some ⟨.exclusive, h.depth, s.classLease r.attrs.leaseClass⟩))),
        grantedResult ⟨.exclusive, h.depth, s.classLease r.attrs.leaseClass⟩ r.taint) := by
  have hu := (s.holdingUnder_eq_some hN st c.name i r h).mpr ⟨hn, hh⟩
  rw [upgradeCommand, if_neg (hn.ne_zero hN)]
  simp [hu, hp, hm, (r.soleHolder_iff st).mpr ho]

/-- The GRANTED result in the bytes of R33. -/
theorem grantedResult_loaded (s : State) (m : Mode) (depth : Nat) (k : ClassId) (taint : Option StationId) :
    grantedResult ⟨m, depth, s.classLease k⟩ taint =
      ⟨.granted, byteOf depth, m.byte, if taint = none then 0 else 1, (s.leaseClass k).length⟩ := by
  unfold grantedResult
  rw [flagByte_taint, State.classLease, leaseByte_fullLease]

/-! ### RELEASE -/

theorem releaseCommand_badName (hz : c.name = 0) : releaseCommand st c s = (s, .bare .badName) := by
  simp [releaseCommand, hz]

theorem releaseCommand_notHolder (hz : c.name ≠ 0) (hu : s.holdingUnder st c.name = none) :
    releaseCommand st c s = (s, .bare .notHolder) := by
  rw [releaseCommand, if_neg hz]
  simp [hu]

theorem releaseCommand_upgradePending (hz : c.name ≠ 0) (hu : s.holdingUnder st c.name = some (i, r, h))
    (hd : h.depth ≤ 1) (hw : r.UpgradeWaiter st) : releaseCommand st c s = (s, .bare .upgradePending) := by
  rw [releaseCommand, if_neg hz]
  simp [hu, hd, (r.upgradeWaits_iff st).mpr hw]

theorem releaseCommand_last (hz : c.name ≠ 0) (hu : s.holdingUnder st c.name = some (i, r, h))
    (hd : h.depth ≤ 1) (hw : ¬ r.UpgradeWaiter st) :
    releaseCommand st c s = ((s.dropHolding i r st).settle i, .bare .done) := by
  rw [releaseCommand, if_neg hz]
  simp [hu, hd, mt (r.upgradeWaits_iff st).mp hw]

theorem releaseCommand_deep (hz : c.name ≠ 0) (hu : s.holdingUnder st c.name = some (i, r, h)) (hd : 2 ≤ h.depth) :
    releaseCommand st c s =
      (s.setRecord i (some (r.setHolding st (some { h with depth := h.depth - 1 }))),
        ⟨.done, byteOf (h.depth - 1), 0, 0, 0⟩) := by
  have hnot : ¬ h.depth ≤ 1 := by omega
  rw [releaseCommand, if_neg hz]
  simp [hu, hnot]

theorem releaseCommand_checks (hN : s.NamesLaw) : FirstApplies
    [(c.name = 0, .badName),
     (¬ ∃ i r h, s.Named c.name i r ∧ r.holding st = some h, .notHolder),
     (∃ i r h, s.Named c.name i r ∧ r.holding st = some h ∧ h.depth ≤ 1 ∧ r.UpgradeWaiter st, .upgradePending),
     (True, .done)]
    (releaseCommand st c s).2.code := by
  by_cases hz : c.name = 0
  · rw [releaseCommand_badName hz]
    exact .here hz
  refine .skip hz ?_
  cases hu : s.holdingUnder st c.name with
  | none =>
    rw [releaseCommand_notHolder hz hu]
    exact .here ((s.holdingUnder_eq_none hN st c.name).mp hu)
  | some x =>
    obtain ⟨i, r, h⟩ := x
    obtain ⟨hn, hh⟩ := (s.holdingUnder_eq_some hN st c.name i r h).mp hu
    have hpending := State.exists_held_iff hN hn hh fun _ q g => g.depth ≤ 1 ∧ q.UpgradeWaiter st
    refine .skip (not_not_intro ⟨i, r, h, hn, hh⟩) ?_
    by_cases hd : h.depth ≤ 1
    · by_cases hw : r.UpgradeWaiter st
      · rw [releaseCommand_upgradePending hz hu hd hw]
        exact .here (hpending.mpr ⟨hd, hw⟩)
      · rw [releaseCommand_last hz hu hd hw]
        exact .skip (fun hex => hw (hpending.mp hex).2) (.here trivial)
    · rw [releaseCommand_deep hz hu (by omega)]
      exact .skip (fun hex => hd (hpending.mp hex).1) (.here trivial)

/-! ### DOWNGRADE -/

theorem downgradeCommand_badName (hz : c.name = 0) : downgradeCommand st c s = (s, .bare .badName) := by
  simp [downgradeCommand, hz]

theorem downgradeCommand_notHolder (hz : c.name ≠ 0) (hu : s.holdingUnder st c.name = none) :
    downgradeCommand st c s = (s, .bare .notHolder) := by
  rw [downgradeCommand, if_neg hz]
  simp [hu]

theorem downgradeCommand_badMode (hz : c.name ≠ 0) (hu : s.holdingUnder st c.name = some (i, r, h))
    (hbad : h.mode = .shared ∨ r.attrs.sharedAllowed = false) :
    downgradeCommand st c s = (s, .bare .badMode) := by
  rcases hbad with hm | ha
  · rw [downgradeCommand, if_neg hz]
    simp [hu, hm]
  · rw [downgradeCommand, if_neg hz]
    simp [hu, ha]

theorem downgradeCommand_done (hz : c.name ≠ 0) (hu : s.holdingUnder st c.name = some (i, r, h))
    (hm : h.mode ≠ .shared) (ha : r.attrs.sharedAllowed ≠ false) :
    downgradeCommand st c s =
      ((s.setRecord i (some (r.setHolding st (some { h with mode := .shared })))).settle i,
        ⟨.done, byteOf h.depth, 0, 0, 0⟩) := by
  rw [downgradeCommand, if_neg hz]
  simp [hu, hm, ha]

theorem downgradeCommand_checks (hN : s.NamesLaw) : FirstApplies
    [(c.name = 0, .badName),
     (¬ ∃ i r h, s.Named c.name i r ∧ r.holding st = some h, .notHolder),
     (∃ i r h, s.Named c.name i r ∧ r.holding st = some h ∧ h.mode = .shared, .badMode),
     (∃ i r, s.Named c.name i r ∧ r.attrs.sharedAllowed = false, .badMode),
     (True, .done)]
    (downgradeCommand st c s).2.code := by
  by_cases hz : c.name = 0
  · rw [downgradeCommand_badName hz]
    exact .here hz
  refine .skip hz ?_
  cases hu : s.holdingUnder st c.name with
  | none =>
    rw [downgradeCommand_notHolder hz hu]
    exact .here ((s.holdingUnder_eq_none hN st c.name).mp hu)
  | some x =>
    obtain ⟨i, r, h⟩ := x
    obtain ⟨hn, hh⟩ := (s.holdingUnder_eq_some hN st c.name i r h).mp hu
    have hshared := State.exists_held_iff hN hn hh fun _ _ g => g.mode = .shared
    have hforbidden := State.exists_named_iff hN hn fun _ q => q.attrs.sharedAllowed = false
    refine .skip (not_not_intro ⟨i, r, h, hn, hh⟩) ?_
    by_cases hm : h.mode = .shared
    · rw [downgradeCommand_badMode hz hu (.inl hm)]
      exact .here (hshared.mpr hm)
    refine .skip (mt hshared.mp hm) ?_
    by_cases ha : r.attrs.sharedAllowed = false
    · rw [downgradeCommand_badMode hz hu (.inr ha)]
      exact .here (hforbidden.mpr ha)
    · rw [downgradeCommand_done hz hu hm ha]
      exact .skip (mt hforbidden.mp ha) (.here trivial)

end Holder

/-! ### The statements -/

/-- Settles O19. -/
theorem upgradeOfOnlyHolderAtOnce : Obligations.UpgradeOfOnlyHolderAtOnce := by
  intro s st c i r h hdue hN hn hh hm hp ho
  rw [exec_upgrade_due hdue, upgradeCommand_of_onlyHolder hN hn hh hm hp ho, grantedResult_loaded]
  rfl

/-- Settles O22: the depth decides between the lowered holding and its removal, in a record that is then settled. -/
theorem releaseLowersOrRemoves : Obligations.ReleaseLowersOrRemoves := by
  intro s st c hdue hN
  have hexec := exec_release_due hdue
  refine ⟨posted_code hexec (releaseCommand_checks hN), fun i r h hn hh hd => ?_, fun i r h hn hh hd hw => ?_⟩
  all_goals
    have hz := hn.ne_zero hN
    have hu := (s.holdingUnder_eq_some hN st c.name i r h).mpr ⟨hn, hh⟩
  · rw [hexec, releaseCommand_deep hz hu hd]
    rfl
  · rw [hexec, releaseCommand_last hz hu hd.le hw]
    rfl

/-- Settles O23: an accepted downgrade changes the mode alone, and the record is then settled. -/
theorem downgradeMakesShared : Obligations.DowngradeMakesShared := by
  intro s st c hdue hN
  have hexec := exec_downgrade_due hdue
  refine ⟨posted_code hexec (downgradeCommand_checks hN), fun i r h hn hh hm ha => ?_⟩
  have hu := (s.holdingUnder_eq_some hN st c.name i r h).mpr ⟨hn, hh⟩
  rw [hexec, downgradeCommand_done (hn.ne_zero hN) hu (by simp [hm]) (by simp [ha])]
  rfl

end Sys2Proof.Machine
end

section
/-!
SUPPORT. R25: each command's answers, and the turn of a captured command as one of them. With it, O12.
-/

namespace Sys2Proof.Machine

/-! ### Results that refuse -/

/-- The code is a refusal, or one of the two other answers after which nothing has changed (R25, R182). -/
abbrev ResultCode.Refuses (code : ResultCode) : Prop :=
  64 ≤ code.byte.toNat ∨ code = .unavailable ∨ code = .noRecord

/-- The result defines no byte but, of a DEADLOCK, D0 (R25). -/
def Result.RefusalBytes (r : Result) : Prop :=
  (r.code ≠ .deadlock → r = ⟨r.code, 0, 0, 0, 0⟩) ∧ (r.code = .deadlock → ∃ d0, r = ⟨.deadlock, d0, 0, 0, 0⟩)

/-- Where the answer of a command refuses, the command has left the state as it was (R25). -/
def OnlyPostsRefusal (s : State) (x : State × Result) : Prop :=
  x.2.code.Refuses → x.1 = s ∧ x.2.RefusalBytes

theorem Result.refusalBytes_bare (code : ResultCode) : (Result.bare code).RefusalBytes :=
  ⟨fun _ => rfl, fun h => ⟨0, congrArg Result.bare h⟩⟩

/-- An answer that changes nothing and posts a refusal's bytes. -/
theorem OnlyPostsRefusal.unchanged (s : State) {r : Result} (h : r.RefusalBytes) : OnlyPostsRefusal s (s, r) :=
  fun _ => ⟨rfl, h⟩

theorem OnlyPostsRefusal.bare (s : State) (code : ResultCode) : OnlyPostsRefusal s (s, .bare code) :=
  .unchanged s (Result.refusalBytes_bare code)

/-- An answer with a code that refuses nothing may change the state. -/
theorem OnlyPostsRefusal.accepted {s : State} {x : State × Result} (code : ResultCode) (hcode : ¬ code.Refuses)
    (h : x.2.code = code) : OnlyPostsRefusal s x := fun hr => absurd (h ▸ hr) hcode

theorem OnlyPostsRefusal.done {s : State} {x : State × Result} (h : x.2.code = .done) : OnlyPostsRefusal s x :=
  .accepted .done (by decide) h

theorem OnlyPostsRefusal.granted {s : State} {x : State × Result} (h : x.2.code = .granted) : OnlyPostsRefusal s x :=
  .accepted .granted (by decide) h

theorem OnlyPostsRefusal.queued {s : State} {x : State × Result} (h : x.2.code = .queued) : OnlyPostsRefusal s x :=
  .accepted .queued (by decide) h

theorem OnlyPostsRefusal.endOfList {s : State} {x : State × Result} (h : x.2.code = .endOfList) :
    OnlyPostsRefusal s x := .accepted .endOfList (by decide) h

/-- The tests of a wait refuse with a code alone, but for DEADLOCK with its blocker in D0. -/
theorem waitRefusal_refusalBytes {s : State} {st : StationId} {blockers : List StationId} {r : Result}
    (h : s.waitRefusal st blockers = some r) : r.RefusalBytes := by
  unfold State.waitRefusal at h
  split_ifs at h
  · obtain rfl := Option.some.inj h
    exact Result.refusalBytes_bare _
  · obtain rfl := Option.some.inj h
    exact Result.refusalBytes_bare _
  · obtain ⟨b, -, rfl⟩ := Option.map_eq_some_iff.mp h
    exact ⟨fun hne => absurd rfl hne, fun _ => ⟨byteOf b.val, rfl⟩⟩

/-! ### The refusals of each command -/

section Commands

variable (st : StationId) (c : Captured) (s : State)

theorem attachCommand_onlyPostsRefusal : OnlyPostsRefusal s (attachCommand st c s) := by
  unfold attachCommand
  split
  · exact .done rfl
  · exact .bare s _

theorem claimAbsent_onlyPostsRefusal (n : LockName) (m : Mode) : OnlyPostsRefusal s (claimAbsent s st n m) := by
  unfold claimAbsent
  split
  · exact .bare s _
  · split_ifs
    · exact .bare s _
    · exact .bare s _
    · exact .granted rfl

theorem claimHeld_onlyPostsRefusal (m : Mode) (i : SlotId) (r : Record) (h : Holding) :
    OnlyPostsRefusal s (claimHeld s st m i r h) := by
  unfold claimHeld
  split_ifs
  · exact .bare s _
  · exact .bare s _
  · exact .granted rfl

theorem claimNew_onlyPostsRefusal (m : Mode) (limit : Byte) (i : SlotId) (r : Record) :
    OnlyPostsRefusal s (claimNew s st m limit i r) := by
  unfold claimNew
  split
  · exact .bare s _
  · split
    · exact .granted rfl
    · split
      · exact .bare s _
      · split
        · next hw => exact .unchanged s (waitRefusal_refusalBytes hw)
        · exact .queued rfl

theorem claimCommand_onlyPostsRefusal : OnlyPostsRefusal s (claimCommand st c s) := by
  unfold claimCommand
  split
  · exact .bare s _
  · split
    · exact .bare s _
    · split
      · exact claimAbsent_onlyPostsRefusal st s _ _
      · split_ifs
        · exact .bare s _
        · exact .bare s _
        · split
          · exact claimHeld_onlyPostsRefusal st s _ _ _ _
          · exact claimNew_onlyPostsRefusal st s _ _ _ _

theorem releaseCommand_onlyPostsRefusal : OnlyPostsRefusal s (releaseCommand st c s) := by
  unfold releaseCommand
  split
  · exact .bare s _
  · split
    · exact .bare s _
    · split_ifs
      · exact .bare s _
      · exact .done rfl
      · exact .done rfl

theorem downgradeCommand_onlyPostsRefusal : OnlyPostsRefusal s (downgradeCommand st c s) := by
  unfold downgradeCommand
  split
  · exact .bare s _
  · split
    · exact .bare s _
    · split_ifs
      · exact .bare s _
      · exact .bare s _
      · exact .done rfl

theorem upgradeCommand_onlyPostsRefusal : OnlyPostsRefusal s (upgradeCommand st c s) := by
  unfold upgradeCommand
  split
  · exact .bare s _
  · split
    · exact .bare s _
    · split
      · exact .bare s _
      · split
        · exact .bare s _
        · split
          · exact .granted rfl
          · split
            · exact .bare s _
            · split
              · next hw => exact .unchanged s (waitRefusal_refusalBytes hw)
              · exact .queued rfl

theorem renewCommand_onlyPostsRefusal : OnlyPostsRefusal s (renewCommand st c s) := by
  unfold renewCommand
  split
  · exact .bare s _
  · split
    · exact .bare s _
    · exact .done rfl

theorem cancelCommand_onlyPostsRefusal : OnlyPostsRefusal s (cancelCommand st c s) := by
  unfold cancelCommand
  split
  · exact .done rfl
  · exact .bare s _

theorem clearTaintCommand_onlyPostsRefusal : OnlyPostsRefusal s (clearTaintCommand st c s) := by
  unfold clearTaintCommand
  split
  · exact .bare s _
  · split
    · exact .bare s _
    · split
      · exact .bare s _
      · exact .done rfl

theorem view_onlyPostsRefusal (r : Record) (v : View) : OnlyPostsRefusal s (s, r.view st v) := by
  cases v with
  | summary => exact .done rfl
  | waiter p =>
    unfold Record.view
    dsimp only
    split
    · exact .bare s _
    · exact .done rfl
  | own =>
    unfold Record.view
    dsimp only
    split
    · exact .bare s _
    · exact .done rfl

theorem inspectCommand_onlyPostsRefusal : OnlyPostsRefusal s (inspectCommand st c s) := by
  unfold inspectCommand
  split
  · exact .bare s _
  · split
    · exact .bare s _
    · split
      · exact .bare s _
      · exact view_onlyPostsRefusal st s _ _

theorem listFrom_onlyPostsRefusal (cur : Cursor) : OnlyPostsRefusal s (listFrom st cur s) := by
  unfold listFrom
  split
  · exact .done rfl
  · exact .endOfList rfl

theorem listFirstCommand_onlyPostsRefusal : OnlyPostsRefusal s (listFirstCommand st c s) := by
  unfold listFirstCommand
  split
  · exact .bare s _
  · exact listFrom_onlyPostsRefusal st s _

theorem listNextCommand_onlyPostsRefusal : OnlyPostsRefusal s (listNextCommand st c s) := by
  unfold listNextCommand
  split
  · exact .bare s _
  · exact listFrom_onlyPostsRefusal st s _

theorem stationInfoCommand_onlyPostsRefusal : OnlyPostsRefusal s (stationInfoCommand st c s) := by
  unfold stationInfoCommand
  split
  · exact .bare s _
  · exact .done rfl

theorem defineAbsent_onlyPostsRefusal (n : LockName) (a : Attributes) : OnlyPostsRefusal s (defineAbsent n a s) := by
  unfold defineAbsent
  split
  · exact .bare s _
  · split
    · exact .bare s _
    · exact .done rfl

theorem defineCommand_onlyPostsRefusal : OnlyPostsRefusal s (defineCommand st c s) := by
  unfold defineCommand
  split
  · exact .bare s _
  · split
    · exact .bare s _
    · split
      · exact defineAbsent_onlyPostsRefusal s _ _
      · split_ifs
        · exact .bare s _
        · exact .bare s _
        · exact .bare s _
        · exact .done rfl

theorem amendCommand_onlyPostsRefusal : OnlyPostsRefusal s (amendCommand st c s) := by
  unfold amendCommand
  split
  · exact .bare s _
  · split
    · exact .bare s _
    · split
      · exact .bare s _
      · split_ifs
        · exact .bare s _
        · exact .bare s _
        · exact .done rfl

theorem retireCommand_onlyPostsRefusal : OnlyPostsRefusal s (retireCommand st c s) := by
  unfold retireCommand
  split
  · exact .bare s _
  · split
    · exact .bare s _
    · split
      · exact .bare s _
      · exact .done rfl

theorem configureClassCommand_onlyPostsRefusal : OnlyPostsRefusal s (configureClassCommand st c s) := by
  unfold configureClassCommand
  split
  · exact .done rfl
  · exact .bare s _

theorem configurePrescalerCommand_onlyPostsRefusal : OnlyPostsRefusal s (configurePrescalerCommand st c s) :=
  .done rfl

theorem configureTickRunCommand_onlyPostsRefusal : OnlyPostsRefusal s (configureTickRunCommand st c s) := by
  unfold configureTickRunCommand
  split
  · exact .bare s _
  · exact .done rfl

theorem configureDefaultsCommand_onlyPostsRefusal : OnlyPostsRefusal s (configureDefaultsCommand st c s) := by
  unfold configureDefaultsCommand
  split
  · exact .bare s _
  · exact .done rfl

end Commands

/-! ### The turn of a captured command -/

/-- A command's own work completes it, with an answer that keeps R25, or leaves work in the slot. -/
def RefusesCleanly (st : StationId) (own : State → State) : Prop :=
  ∀ s, (∃ x, OnlyPostsRefusal s x ∧ own s = x.1.complete st x.2) ∨ ((own s).ctx st).slot ≠ .empty

theorem refusesCleanly_answer {st : StationId} {own : State → State × Result}
    (h : ∀ s, OnlyPostsRefusal s (own s)) : RefusesCleanly st fun s => answer st (own s) :=
  fun s => .inl ⟨own s, h s, rfl⟩

/-- A walk that is not at slot 63 stays in the slot of its station (R99). -/
theorem walkStep_slot_ne_empty (st : StationId) (c : Captured) (s : State) {w : Walk} (h : w.position ≠ 63) :
    ((walkStep st c w s).ctx st).slot ≠ .empty := by
  simp [walkStep, h, State.carryWalk]

theorem detachFirstTurn_refusesCleanly (st : StationId) (c : Captured) : RefusesCleanly st (detachFirstTurn st c) :=
  fun _ => .inr (walkStep_slot_ne_empty st c _ (by simp [Walk.start]))

theorem purgeCommand_refusesCleanly (st : StationId) (c : Captured) : RefusesCleanly st (purgeCommand st c) := by
  intro s
  unfold purgeCommand
  split
  · exact .inl ⟨_, .bare s _, rfl⟩
  · split
    · exact .inr (walkStep_slot_ne_empty st c _ (by simp [Walk.start]))
    · exact .inl ⟨_, .bare s _, rfl⟩

/-- The row of a captured command is a turn of the command it names, whose work refuses as R25 says. -/
theorem exec_turnRow {st : StationId} {c : Captured} {cmd : Command} (hc : c.command = some cmd) :
    ∃ mine own, RefusesCleanly st (own c) ∧ ∀ s, exec (turnRow st c) s = unlessReset s (commandTurn st cmd mine own) := by
  unfold turnRow
  rw [hc]
  cases cmd with
  | attach => exact ⟨_, _, refusesCleanly_answer (attachCommand_onlyPostsRefusal st c), fun _ => rfl⟩
  | detach => exact ⟨_, _, detachFirstTurn_refusesCleanly st c, fun _ => rfl⟩
  | claim => exact ⟨_, _, refusesCleanly_answer (claimCommand_onlyPostsRefusal st c), fun _ => rfl⟩
  | release => exact ⟨_, _, refusesCleanly_answer (releaseCommand_onlyPostsRefusal st c), fun _ => rfl⟩
  | upgrade => exact ⟨_, _, refusesCleanly_answer (upgradeCommand_onlyPostsRefusal st c), fun _ => rfl⟩
  | downgrade => exact ⟨_, _, refusesCleanly_answer (downgradeCommand_onlyPostsRefusal st c), fun _ => rfl⟩
  | renew => exact ⟨_, _, refusesCleanly_answer (renewCommand_onlyPostsRefusal st c), fun _ => rfl⟩
  | cancel => exact ⟨_, _, refusesCleanly_answer (cancelCommand_onlyPostsRefusal st c), fun _ => rfl⟩
  | clearTaint => exact ⟨_, _, refusesCleanly_answer (clearTaintCommand_onlyPostsRefusal st c), fun _ => rfl⟩
  | inspect => exact ⟨_, _, refusesCleanly_answer (inspectCommand_onlyPostsRefusal st c), fun _ => rfl⟩
  | listFirst => exact ⟨_, _, refusesCleanly_answer (listFirstCommand_onlyPostsRefusal st c), fun _ => rfl⟩
  | listNext => exact ⟨_, _, refusesCleanly_answer (listNextCommand_onlyPostsRefusal st c), fun _ => rfl⟩
  | define => exact ⟨_, _, refusesCleanly_answer (defineCommand_onlyPostsRefusal st c), fun _ => rfl⟩
  | amend => exact ⟨_, _, refusesCleanly_answer (amendCommand_onlyPostsRefusal st c), fun _ => rfl⟩
  | retire => exact ⟨_, _, refusesCleanly_answer (retireCommand_onlyPostsRefusal st c), fun _ => rfl⟩
  | purge => exact ⟨_, _, purgeCommand_refusesCleanly st c, fun _ => rfl⟩
  | stationInfo => exact ⟨_, _, refusesCleanly_answer (stationInfoCommand_onlyPostsRefusal st c), fun _ => rfl⟩
  | configure =>
    have hclass := refusesCleanly_answer (st := st) (configureClassCommand_onlyPostsRefusal st c)
    cases c.selector with
    | none => exact ⟨_, _, hclass, fun _ => rfl⟩
    | some sel =>
      cases sel with
      | leaseClass k => exact ⟨_, _, hclass, fun _ => rfl⟩
      | prescaler =>
        exact ⟨_, _, refusesCleanly_answer (configurePrescalerCommand_onlyPostsRefusal st c), fun _ => rfl⟩
      | tickRun => exact ⟨_, _, refusesCleanly_answer (configureTickRunCommand_onlyPostsRefusal st c), fun _ => rfl⟩
      | defaults => exact ⟨_, _, refusesCleanly_answer (configureDefaultsCommand_onlyPostsRefusal st c), fun _ => rfl⟩

theorem turnStation_turnRow (st : StationId) (c : Captured) : turnStation (turnRow st c) = some st := by
  unfold turnRow
  split
  case h_19 => split <;> rfl
  all_goals rfl

/-- A row that is due and names a station with a captured command is that command's row, at its turn. -/
theorem State.turnDue_pending {s : State} {i : Instr} {st : StationId} {c : Captured} (hd : s.turnDue = some i)
    (hi : turnStation i = some st) (hc : (s.ctx st).slot = .pending c) :
    i = turnRow st c ∧ s.pendingTurn st = some c := by
  rw [State.pendingTurn_eq_some]
  unfold State.turnDue at hd
  cases ha : s.arbiter with
  | none => simp [ha] at hd
  | some a =>
    have hsame : a = st := by
      cases hslot : (s.ctx a).slot with
      | empty => simp [ha, hslot] at hd
      | pending c' =>
        simp only [ha, hslot, Option.some.injEq] at hd
        rw [← hd, turnStation_turnRow] at hi
        exact Option.some.inj hi
      | executing c' w =>
        cases hk : w.kind with
        | detach =>
          simp only [ha, hslot, hk, Option.some.injEq] at hd
          subst hd
          exact Option.some.inj hi
        | purge =>
          simp only [ha, hslot, hk, Option.some.injEq] at hd
          subst hd
          exact Option.some.inj hi
    subst hsame
    simp only [ha, hc, Option.some.injEq] at hd
    exact ⟨hd.symm, rfl, hc⟩

/-- A turn of a captured command completes it with an answer that keeps R25, or leaves its slot with work. -/
theorem exec_turnRow_refuses {s : State} {st : StationId} {c : Captured} (hreset : s.resetPin = false)
    (hp : s.pendingTurn st = some c) :
    (∃ x, OnlyPostsRefusal s x ∧ exec (turnRow st c) s = posted x.1 st x.2)
      ∨ ∃ t, exec (turnRow st c) s = .next t ∧ (t.ctx st).slot ≠ .empty := by
  have hslot : (s.ctx st).slot ≠ .empty := by
    rw [((s.pendingTurn_eq_some st c).mp hp).2]
    exact CommandSlot.noConfusion
  cases hc : c.command with
  | none =>
    have hrow : turnRow st c = .badCommand st := by simp [turnRow, hc]
    refine .inl ⟨_, .bare s .badCommand, ?_⟩
    rw [hrow]
    show unlessReset s (badCommandTurn st) = _
    rw [unlessReset_low _ _ hreset]
    simp [badCommandTurn, hp, hc]
  | some cmd =>
    obtain ⟨mine, own, hclean, hexec⟩ := exec_turnRow (st := st) hc
    rw [hexec, unlessReset_low _ _ hreset]
    rcases commandTurn_cases st cmd mine own s with e | ⟨_, code, -, -, -, -, e⟩ | ⟨c', hp', -, -, -, e⟩
    · exact .inr ⟨s, by rw [e], hslot⟩
    · exact .inl ⟨_, .bare s code, by rw [e]; rfl⟩
    · obtain rfl := Option.some.inj (hp.symm.trans hp')
      rw [e]
      rcases hclean s with ⟨x, hx, hown⟩ | hwork
      · exact .inl ⟨x, hx, by rw [hown]; rfl⟩
      · exact .inr ⟨_, rfl, hwork⟩

/-- Settles O12: a turn that ends with an EMPTY slot has posted an answer, and each command's answers keep R25. -/
theorem refusalOnlyPostsItsCode : Obligations.RefusalOnlyPostsItsCode := by
  intro s t i st c hreset hdue hi hc hexec hempty hrefuses
  obtain ⟨rfl, hp⟩ := State.turnDue_pending hdue hi hc
  rcases exec_turnRow_refuses hreset hp with ⟨x, hx, hposted⟩ | ⟨t', ht', hwork⟩
  · obtain rfl : (x.1.complete st x.2).endTurn st = t := Host.Outcome.next.inj (hposted.symm.trans hexec)
    rw [posted_result] at hrefuses ⊢
    obtain ⟨hunchanged, hbytes⟩ := hx hrefuses
    exact ⟨by rw [hposted, hunchanged], hbytes⟩
  · obtain rfl := Host.Outcome.next.inj (ht'.symm.trans hexec)
    exact absurd hempty hwork

end Sys2Proof.Machine
end

section
/-!
SUPPORT. CANCEL ends the wait of its station, or finds none. With it, O25.
-/

namespace Sys2Proof.Machine

theorem cancelCommand_noWait {s : State} {st : StationId} (c : Captured) (h : ¬ s.Waiting st) :
    cancelCommand st c s = (s, .bare .noWait) := by
  simp [cancelCommand, mt (s.hasWait_iff st).mp h]

theorem cancelCommand_waiting {s : State} {st : StationId} (c : Captured) (h : s.Waiting st) :
    cancelCommand st c s = (s.endWait st, .bare .done) := by
  simp [cancelCommand, (s.hasWait_iff st).mpr h]

/-- The end of a wait takes the station's one entry out of its queue, and settles the record (R58). -/
theorem endWait_of_waiting {s : State} (hone : s.OneWaitLaw) {i : SlotId} {r : Record} {w : Waiter}
    (hr : s.record i = some r) (hw : w ∈ r.queue) :
    s.endWait w.station = (s.setRecord i (some (r.dequeue w.station))).settle i := by
  have hwait := (s.waitOf_eq_some hone w.station i r w).mpr ⟨hr, hw, rfl⟩
  simp [State.endWait, hwait]

/-- Settles O25. -/
theorem cancelEndsTheWait : Obligations.CancelEndsTheWait := by
  intro s st c hdue hone
  have hexec := exec_cancel_due hdue
  refine ⟨fun hnot => ?_, fun i r w hr hw hst => ?_⟩
  · rw [hexec, cancelCommand_noWait c hnot]
    rfl
  · subst hst
    rw [hexec, cancelCommand_waiting c ⟨i, r, hr, w, hw, rfl⟩, endWait_of_waiting hone hr hw, dequeue_eq]
    rfl

end Sys2Proof.Machine
end

section
/-!
SUPPORT. The stands-before relation read off the stations in a record's line (R60), and the changes of a record that only
take stations out of its line or grant from the front of it.
-/

namespace Sys2Proof.Machine

/-! ### The line of a record -/

/-- The stations in a record's queue, from its head (R6). -/
def Record.line (r : Record) : List StationId := r.queue.map (·.station)

theorem Record.waits_iff_mem_line (r : Record) (a : StationId) : r.waits a = true ↔ a ∈ r.line := by
  rw [r.waits_iff, Record.line, List.mem_map]

/-- In a list without repetition, what stands before an element precedes it. -/
theorem mem_takeWhile_ne_iff {α : Type} [DecidableEq α] {l : List α} (hl : l.Nodup) {a b : α} (hb : b ∈ l) :
    a ∈ l.takeWhile (· != b) ↔ [a, b].Sublist l := by
  induction l with
  | nil => simp at hb
  | cons x xs ih =>
    obtain ⟨hx, hxs⟩ := List.nodup_cons.mp hl
    rw [List.cons_sublist_cons', List.singleton_sublist]
    by_cases hxb : x = b
    · subst hxb
      have hnot : ¬ [a, x].Sublist xs := fun h => hx (h.subset (by simp))
      simp [hx, hnot]
    · have hmem : b ∈ xs := (List.mem_cons.mp hb).resolve_left (Ne.symm hxb)
      rw [List.takeWhile_cons_of_pos (by simpa using hxb), List.mem_cons, ih hxs hmem]
      simp [hmem, or_comm]

/-- Station a is before station b at a record: it holds it and b, another station, is in line, or it precedes b in the
line (R60). -/
def Record.Before (r : Record) (a b : StationId) : Prop :=
  (r.holding a ≠ none ∧ a ≠ b ∧ b ∈ r.line) ∨ [a, b].Sublist r.line

theorem Record.Before.mem_line {r : Record} {a b : StationId} (h : r.Before a b) : b ∈ r.line := by
  rcases h with ⟨-, -, hb⟩ | hsub
  · exact hb
  · exact hsub.subset (by simp)

theorem Record.before_iff {r : Record} (hl : r.line.Nodup) (a b : StationId) :
    r.Before a b ↔
      r.waits b = true ∧ ((r.holding a ≠ none ∧ a ≠ b) ∨ ∃ w ∈ r.aheadOf b, w.station = a) := by
  have hahead (hb : b ∈ r.line) : (∃ w ∈ r.aheadOf b, w.station = a) ↔ [a, b].Sublist r.line := by
    rw [← mem_takeWhile_ne_iff hl hb, Record.line, List.takeWhile_map, List.mem_map]
    rfl
  rw [r.waits_iff_mem_line]
  constructor
  · intro h
    refine ⟨h.mem_line, ?_⟩
    rw [hahead h.mem_line]
    exact h.imp_left fun ⟨hh, hne, _⟩ => ⟨hh, hne⟩
  · rintro ⟨hb, h⟩
    rw [hahead hb] at h
    exact h.imp_left fun ⟨hh, hne⟩ => ⟨hh, hne, hb⟩

/-! ### One wait for each station -/

/-- The entries of a station in the queue of a slot. -/
def State.entriesAt (s : State) (a : StationId) (i : SlotId) : Nat :=
  match s.record i with
  | none => 0
  | some r => r.queue.countP (·.station == a)

theorem State.waiterEntries_eq (s : State) (a : StationId) : s.waiterEntries a = (allSlots.map (s.entriesAt a)).sum := rfl

theorem State.entriesAt_some {s : State} {i : SlotId} {r : Record} (h : s.record i = some r) (a : StationId) :
    s.entriesAt a i = r.line.count a := by
  simp only [State.entriesAt, h, Record.line, List.count, List.countP_map]
  rfl

theorem State.entriesAt_none {s : State} {i : SlotId} (h : s.record i = none) (a : StationId) : s.entriesAt a i = 0 := by
  simp only [State.entriesAt, h]

theorem State.OneWaitLaw.nodup_line {s : State} (h : s.OneWaitLaw) {i : SlotId} {r : Record} (hr : s.record i = some r) :
    r.line.Nodup := by
  refine List.nodup_iff_count_le_one.mpr fun a => ?_
  rw [← State.entriesAt_some hr a]
  exact (le_sum_finRange (s.entriesAt a) i).trans (h a)

/-- No slot has more entries of a station than it had. -/
theorem State.OneWaitLaw.of_entriesAt_le {s t : State} (h : s.OneWaitLaw) (hle : ∀ a i, t.entriesAt a i ≤ s.entriesAt a i) :
    t.OneWaitLaw := fun a => (List.sum_le_sum fun i _ => hle a i).trans (h a)

theorem State.standsBefore_iff {s : State} (h : s.OneWaitLaw) (a b : StationId) :
    s.StandsBefore a b ↔ ∃ i, ∃ r ∈ s.record i, r.Before a b :=
  exists_congr fun _ => exists_congr fun _ => and_congr_right fun hr => (Record.before_iff (h.nodup_line hr) a b).symm

theorem State.waiting_iff_mem_line (s : State) (a : StationId) : s.Waiting a ↔ ∃ i, ∃ r ∈ s.record i, a ∈ r.line := by
  simp only [State.Waiting, Record.line, List.mem_map]

/-! ### Records that only lose stations from their lines -/

/-- Stations have left the line or the holders, and none has joined them. -/
def Record.Shrunk (r r' : Record) : Prop := r'.line.Sublist r.line ∧ ∀ a, r'.holding a ≠ none → r.holding a ≠ none

/-- Stations have left the line, and the new holders, if any, are of a batch that stood in front of all who are still in
it (R38). -/
def Record.Relieved (r r' : Record) : Prop :=
  ∃ batch, (batch ++ r'.line).Sublist r.line ∧ ∀ a, r'.holding a ≠ none → r.holding a ≠ none ∨ a ∈ batch

theorem Record.Shrunk.refl (r : Record) : r.Shrunk r := ⟨.refl _, fun _ => id⟩

theorem Record.Shrunk.trans {r q p : Record} (h : r.Shrunk q) (k : q.Shrunk p) : r.Shrunk p :=
  ⟨k.1.trans h.1, fun a ha => h.2 a (k.2 a ha)⟩

theorem Record.Shrunk.relieved {r r' : Record} (h : r.Shrunk r') : r.Relieved r' :=
  ⟨[], h.1, fun a ha => .inl (h.2 a ha)⟩

theorem GrantRun.line {full : Option Nat} {r r' : Record} {b : List Waiter} (h : GrantRun full r b r') :
    r.line = b.map (·.station) ++ r'.line := by
  rw [Record.line, h.queue, List.map_append]
  rfl

/-- The grant rule makes holders of the batch it takes from the front of the line (R37, R38). -/
theorem Record.Shrunk.granted {full : Option Nat} {r q q' : Record} {b : List Waiter} (h : r.Shrunk q)
    (hrun : GrantRun full q b q') : r.Relieved q' := by
  refine ⟨b.map (·.station), hrun.line ▸ h.1, fun a ha => ?_⟩
  by_cases hmem : a ∈ b.map (·.station)
  · exact .inr hmem
  · refine .inl (h.2 a ?_)
    rwa [← hrun.holding_of_not_mem a fun w hw hst => hmem (hst ▸ List.mem_map_of_mem hw)]

/-- A station granted from the front of the line was before all who are still in it, and is still. -/
theorem Record.Relieved.before {r r' : Record} (h : r.Relieved r') {a b : StationId}
    (hbefore : r'.Before a b) : r.Before a b := by
  obtain ⟨batch, hsub, hhold⟩ := h
  have hstay : r'.line.Sublist r.line := (List.sublist_append_right batch r'.line).trans hsub
  rcases hbefore with ⟨ha, hne, hb⟩ | hpair
  · rcases hhold a ha with hold | hgranted
    · exact .inl ⟨hold, hne, hstay.subset hb⟩
    · have hpair : ([a] ++ [b]).Sublist (batch ++ r'.line) :=
        (List.singleton_sublist.mpr hgranted).append (List.singleton_sublist.mpr hb)
      exact .inr (hpair.trans hsub)
  · exact .inr (hpair.trans hstay)

/-- A change of what is neither the queue nor the holders. -/
theorem shrunk_of_eq {r r' : Record} (hq : r'.queue = r.queue) (hh : r'.holders = r.holders) : r.Shrunk r' := by
  refine ⟨by rw [Record.line, Record.line, hq], fun a ha => ?_⟩
  rwa [Record.holding, hh] at ha

theorem shrunk_setHolding {r : Record} {a : StationId} {h : Holding} (g : Option Holding) (hh : r.holding a = some h) :
    r.Shrunk (r.setHolding a g) := by
  refine ⟨.refl _, fun b hb => ?_⟩
  rw [Record.holding_setHolding] at hb
  split at hb
  · next e => simp [e, hh]
  · exact hb

theorem shrunk_mapHoldings (r : Record) (f : StationId → Holding → Option Holding) : r.Shrunk (r.mapHoldings f) := by
  refine ⟨.refl _, fun a ha hnone => ha ?_⟩
  simp [hnone]

theorem shrunk_filter (r : Record) (p : Waiter → Bool) : r.Shrunk { r with queue := r.queue.filter p } :=
  ⟨List.filter_sublist.map _, fun _ => id⟩

theorem shrunk_ticked (r : Record) : r.Shrunk r.ticked := by
  refine ⟨?_, (shrunk_mapHoldings r fun _ h => h.ticked).2⟩
  have hline (l : List Waiter) :
      ((l.filterMap fun w => if (r.waiterEnd w).isSome then none
        else some { w with deadline := w.deadline.ticked }).map (·.station)).Sublist (l.map (·.station)) := by
    induction l with
    | nil => exact .slnil
    | cons w ws ih =>
      rw [List.filterMap_cons]
      split
      · exact ih.cons _
      · next v hv =>
        obtain ⟨-, rfl⟩ : _ ∧ _ = v := by simpa using hv
        exact ih.cons_cons _
  exact hline r.queue

end Sys2Proof.Machine
end

section
/-!
SUPPORT. The deadlock probe (R63): a search that does not reach the requester has visited every station from which a chain
leads to a blocker, so no chain leads from the requester to one.
-/

namespace Sys2Proof.Machine

theorem State.mem_standingBefore {s : State} (h : s.OneWaitLaw) (a b : StationId) :
    a ∈ s.standingBefore b ↔ s.StandsBefore a b := by
  have htest (r : Record) : r.standsBefore a b = true ↔
      (r.holding a ≠ none ∧ a ≠ b) ∨ ∃ w ∈ r.aheadOf b, w.station = a := by
    simp [Record.standsBefore, r.holds_iff, List.any_eq_true]
  unfold State.standingBefore State.StandsBefore
  cases hw : s.waitOf b with
  | none =>
    have hnot := (s.waitOf_eq_none b).mp hw
    simp only [List.not_mem_nil, false_iff]
    rintro ⟨i, r, hr, hwaits, -⟩
    exact hnot ⟨i, r, hr, (r.waits_iff b).mp hwaits⟩
  | some x =>
    obtain ⟨i, r, w⟩ := x
    obtain ⟨hr, hmem, hst⟩ := s.waitOf_spec b i r w hw
    simp only [List.mem_filter, mem_allStations, true_and, htest]
    constructor
    · exact fun hb => ⟨i, r, hr, (r.waits_iff b).mpr ⟨w, hmem, hst⟩, hb⟩
    · rintro ⟨j, q, hq, hwaits, hb⟩
      obtain ⟨v, hv, hvst⟩ := (q.waits_iff b).mp hwaits
      obtain ⟨rfl, -⟩ := h.unique hr hmem hst hq hv hvst
      obtain rfl := Option.some.inj (hr.symm.trans hq)
      exact hb

/-- From one list of visited stations to another, a search has added stations, each one time; before each that it added
stand only visited stations, and not the requester. -/
structure Explored (s : State) (requester : StationId) (visited after : List StationId) : Prop where
  nodup : after.Nodup
  subset : visited ⊆ after
  closed : ∀ y ∈ after, y ∉ visited → requester ∉ s.standingBefore y ∧ s.standingBefore y ⊆ after

variable {s : State} {requester : StationId}

theorem Explored.refl {visited : List StationId} (h : visited.Nodup) : Explored s requester visited visited :=
  ⟨h, List.Subset.refl _, fun _ hy hn => absurd hy hn⟩

theorem Explored.trans {l m n : List StationId} (h : Explored s requester l m) (k : Explored s requester m n) :
    Explored s requester l n where
  nodup := k.nodup
  subset := List.Subset.trans h.subset k.subset
  closed y hy hl := by
    by_cases hm : y ∈ m
    · exact ⟨(h.closed y hm hl).1, List.Subset.trans (h.closed y hm hl).2 k.subset⟩
    · exact k.closed y hy hm

/-- A list of searches that does not reach the requester visits every station of the list, where each search visits its
own. -/
theorem searchEach_explored {search : StationId → List StationId → Bool × List StationId} {n : Nat}
    (hsearch : ∀ x visited, visited.Nodup → x ∉ visited → n ≤ visited.length → (search x visited).1 = false →
      Explored s requester visited (search x visited).2 ∧ x ∈ (search x visited).2)
    (ys visited : List StationId) (hnd : visited.Nodup) (hn : n ≤ visited.length)
    (hfalse : (searchEach search ys visited).1 = false) :
    Explored s requester visited (searchEach search ys visited).2 ∧ ys ⊆ (searchEach search ys visited).2 := by
  induction ys generalizing visited with
  | nil => exact ⟨.refl hnd, List.nil_subset _⟩
  | cons y ys ih =>
    unfold searchEach at hfalse ⊢
    split at hfalse
    · next hy =>
      rw [if_pos hy]
      obtain ⟨hex, hsub⟩ := ih visited hnd hn hfalse
      exact ⟨hex, List.cons_subset.mpr ⟨hex.subset (by simpa using hy), hsub⟩⟩
    · next hy =>
      rw [if_neg hy]
      dsimp only at hfalse ⊢
      split at hfalse
      · next hreached => exact absurd (hfalse.symm.trans hreached) (by simp)
      · next hreached =>
        rw [if_neg hreached]
        obtain ⟨hfirst, hmem⟩ := hsearch y visited hnd (by simpa using hy) hn (by simpa using hreached)
        obtain ⟨hrest, hsub⟩ := ih _ hfirst.nodup
          (hn.trans (List.Nodup.subperm hnd hfirst.subset).length_le) hfalse
        exact ⟨hfirst.trans hrest, List.cons_subset.mpr ⟨hrest.subset hmem, hsub⟩⟩

/-- A search that does not reach the requester, with fuel for every station not yet visited, has visited all it found. -/
theorem searchFrom_explored (fuel : Nat) (x : StationId) (visited : List StationId) (hnd : visited.Nodup)
    (hx : x ∉ visited) (hfuel : 8 ≤ visited.length + fuel)
    (hfalse : (searchFrom s requester fuel x visited).1 = false) :
    Explored s requester visited (searchFrom s requester fuel x visited).2
      ∧ x ∈ (searchFrom s requester fuel x visited).2 := by
  induction fuel generalizing x visited with
  | zero =>
    have hroom : (x :: visited).length ≤ Fintype.card StationId := (List.nodup_cons.mpr ⟨hx, hnd⟩).length_le_card
    simp only [List.length_cons, Fintype.card_fin] at hroom
    omega
  | succ fuel ih =>
    unfold searchFrom at hfalse ⊢
    dsimp only at hfalse ⊢
    split at hfalse
    · exact absurd hfalse (by simp)
    · next hnot =>
      rw [if_neg hnot]
      obtain ⟨hex, hsub⟩ := searchEach_explored (n := 8 - fuel)
        (fun y v hv hy hlen => ih y v hv hy (by omega)) (s.standingBefore x) (x :: visited)
        (List.nodup_cons.mpr ⟨hx, hnd⟩) (by simp only [List.length_cons]; omega) hfalse
      have hmem := hex.subset List.mem_cons_self
      refine ⟨⟨hex.nodup, (List.cons_subset.mp hex.subset).2, fun y hy hn => ?_⟩, hmem⟩
      by_cases hyx : y = x
      · subst hyx
        exact ⟨by simpa using hnot, hsub⟩
      · exact hex.closed y hy (by simp [hyx, hn])

theorem probeEach_explored (bs visited : List StationId) (hnd : visited.Nodup)
    (hnone : probeEach s requester bs visited = none) :
    ∃ after, Explored s requester visited after ∧ bs ⊆ after := by
  induction bs generalizing visited with
  | nil => exact ⟨visited, .refl hnd, List.nil_subset _⟩
  | cons b bs ih =>
    unfold probeEach at hnone
    split at hnone
    · next hb =>
      obtain ⟨after, hex, hsub⟩ := ih visited hnd hnone
      exact ⟨after, hex, List.cons_subset.mpr ⟨hex.subset (by simpa using hb), hsub⟩⟩
    · next hb =>
      dsimp only at hnone
      split at hnone
      · exact absurd hnone (by simp)
      · next hreached =>
        obtain ⟨hfirst, hmem⟩ := searchFrom_explored 8 b visited hnd (by simpa using hb) (by omega)
          (by simpa using hreached)
        obtain ⟨after, hrest, hsub⟩ := ih _ hfirst.nodup hnone
        exact ⟨after, hfirst.trans hrest, List.cons_subset.mpr ⟨hrest.subset hmem, hsub⟩⟩

/-- No chain leads from the requester to a station that the search visited. -/
theorem Explored.not_chainTo (hone : s.OneWaitLaw) {after : List StationId} (h : Explored s requester [] after)
    {b : StationId} (hb : b ∈ after) : ¬ s.ChainTo requester b := by
  intro hchain
  induction hchain with
  | single hstep => exact (h.closed _ hb (by simp)).1 ((State.mem_standingBefore hone _ _).mpr hstep)
  | tail _ hstep ih => exact ih ((h.closed _ hb (by simp)).2 ((State.mem_standingBefore hone _ _).mpr hstep))

/-- A probe that finds no blocker: no chain leads from the requester to any of them (R63). -/
theorem State.not_chainTo_of_probe (hone : s.OneWaitLaw) {blockers : List StationId}
    (h : s.probe requester blockers = none) {b : StationId} (hb : b ∈ blockers) : ¬ s.ChainTo requester b := by
  obtain ⟨after, hex, hsub⟩ := probeEach_explored blockers [] List.nodup_nil h
  exact hex.not_chainTo hone (hsub hb)

/-- A wait that is not refused: the station waits for nothing, and no chain leads from it to a blocker. -/
theorem waitRefusal_eq_none (hone : s.OneWaitLaw) {blockers : List StationId}
    (h : s.waitRefusal requester blockers = none) :
    ¬ s.Waiting requester ∧ ∀ b ∈ blockers, ¬ s.ChainTo requester b := by
  unfold State.waitRefusal at h
  split_ifs at h with hwait hfull
  rw [s.hasWait_iff] at hwait
  exact ⟨hwait, fun b hb => State.not_chainTo_of_probe hone (Option.map_eq_none_iff.mp h) hb⟩

end Sys2Proof.Machine
end

section
/-!
SUPPORT. R61: most events only relieve records, and the entry of a wait adds nothing before any station but the one that
enters, whose probe has shown that no chain leads from it to a station before it. With it, O58.
-/

namespace Sys2Proof.Machine

/-! ### Events that only relieve records -/

/-- Each record has an empty queue, or was in its slot before and has only been relieved since. -/
def State.Relieved (s t : State) : Prop :=
  ∀ i, ∀ r' ∈ t.record i, r'.queue = [] ∨ ∃ r ∈ s.record i, r.Relieved r'

theorem Record.line_eq_nil {r : Record} (h : r.queue = []) : r.line = [] := by rw [Record.line, h, List.map_nil]

theorem State.Relieved.entriesAt_le {s t : State} (h : s.Relieved t) (a : StationId) (i : SlotId) :
    t.entriesAt a i ≤ s.entriesAt a i := by
  cases hr' : t.record i with
  | none => rw [State.entriesAt_none hr']; exact Nat.zero_le _
  | some r' =>
    rw [State.entriesAt_some hr']
    rcases h i r' hr' with hempty | ⟨r, hr, batch, hsub, -⟩
    · simp [Record.line_eq_nil hempty]
    · rw [State.entriesAt_some hr]
      exact ((List.sublist_append_right batch r'.line).trans hsub).count_le a

theorem State.Relieved.oneWaitLaw {s t : State} (h : s.Relieved t) (hs : s.OneWaitLaw) : t.OneWaitLaw :=
  hs.of_entriesAt_le h.entriesAt_le

theorem State.Relieved.standsBefore {s t : State} (h : s.Relieved t) (hs : s.OneWaitLaw) {a b : StationId}
    (hab : t.StandsBefore a b) : s.StandsBefore a b := by
  obtain ⟨i, r', hr', hbefore⟩ := (State.standsBefore_iff (h.oneWaitLaw hs) a b).mp hab
  rcases h i r' hr' with hempty | ⟨r, hr, hrelieved⟩
  · have hmem := hbefore.mem_line
    rw [Record.line_eq_nil hempty] at hmem
    exact absurd hmem (List.not_mem_nil)
  · exact (State.standsBefore_iff hs a b).mpr ⟨i, r, hr, hrelieved.before hbefore⟩

theorem State.Relieved.noCycleLaw {s t : State} (h : s.Relieved t) (hs : s.NoCycleLaw) : t.NoCycleLaw :=
  have hle : t.StandsBefore ≤ s.StandsBefore := fun _ _ => h.standsBefore hs.1
  ⟨h.oneWaitLaw hs.1, fun a hcycle => hs.2 a (Relation.TransGen.mono hle a a hcycle)⟩

/-- With the same slots, each record is as it was. -/
theorem State.relieved_of_slots {s t : State} (h : t.slots = s.slots) : s.Relieved t := by
  intro i r hr
  unfold State.record at hr
  rw [h] at hr
  exact .inr ⟨r, hr, (Record.Shrunk.refl r).relieved⟩

/-- A record without waiters may take any slot. -/
theorem relieved_setRecord_of_queue {s : State} (i : SlotId) {o : Option Record} (ho : ∀ r ∈ o, r.queue = []) :
    s.Relieved (s.setRecord i o) := by
  intro j r' hr'
  rw [State.record_setRecord] at hr'
  split at hr'
  · exact .inl (ho r' hr')
  · exact .inr ⟨r', hr', (Record.Shrunk.refl r').relieved⟩

theorem relieved_setRecord {s : State} {i : SlotId} {r r' : Record} (hr : s.record i = some r) (h : r.Shrunk r') :
    s.Relieved (s.setRecord i (some r')) := by
  intro j q hq
  rw [State.record_setRecord] at hq
  split at hq
  · next e =>
    obtain rfl := Option.some.inj hq
    exact .inr ⟨r, e ▸ hr, h.relieved⟩
  · exact .inr ⟨q, hq, (Record.Shrunk.refl q).relieved⟩

/-- A record that has shrunk is settled: the grant rule then relieves it (R35). -/
theorem relieved_settle {s u : State} {i : SlotId} {r q : Record} (hr : s.record i = some r) (hq : u.record i = some q)
    (hother : ∀ j, j ≠ i → u.record j = s.record j) (h : r.Shrunk q) : s.Relieved (u.settle i) := by
  intro j r' hr'
  by_cases hj : j = i
  · subst hj
    rw [u.record_settle_mem j q r' hq hr']
    exact .inr ⟨r, hr, h.granted (settleRun_spec u q)⟩
  · rw [u.record_settle_ne i j hj, hother j hj] at hr'
    exact .inr ⟨r', hr', (Record.Shrunk.refl r').relieved⟩

theorem relieved_settle_setRecord {s : State} {i : SlotId} {r q : Record} (hr : s.record i = some r) (h : r.Shrunk q) :
    s.Relieved ((s.setRecord i (some q)).settle i) :=
  relieved_settle hr (s.record_setRecord_same i _) (fun j hj => s.record_setRecord_ne i j _ hj) h

theorem relieved_settle_dropHolding {s : State} {i : SlotId} {r q : Record} {h : Holding} {a : StationId}
    (hr : s.record i = some r) (hq : r.Shrunk q) (hh : q.holding a = some h) :
    s.Relieved ((s.dropHolding i q a).settle i) :=
  relieved_settle hr (s.record_setRecord_same i _) (fun j hj => s.record_setRecord_ne i j _ hj)
    (hq.trans (shrunk_setHolding none hh))

theorem relieved_storeAmended {s : State} {i : SlotId} {r q : Record} (hr : s.record i = some r) (h : r.Shrunk q) :
    s.Relieved (s.storeAmended i q) := by
  have hstored (ns : List (StationId × Notice)) (j : SlotId) :
      ((s.setRecord i (some (q.withdrawOutside q.attrs))).queueNotices ns).record j =
        (s.setRecord i (some (q.withdrawOutside q.attrs))).record j := by
    unfold State.record
    rw [State.queueNotices_slots]
  have hq : q.Shrunk (q.withdrawOutside q.attrs) := shrunk_filter q _
  refine relieved_settle hr ?_ (fun j hj => ?_) (h.trans hq)
  · rw [hstored, State.record_setRecord_same]
  · rw [hstored, s.record_setRecord_ne i j _ hj]

theorem relieved_tickTable (s : State) : s.Relieved s.tickTable := by
  intro i r' hr'
  rw [State.record_tickTable] at hr'
  obtain ⟨r, hr, hafter⟩ := Option.bind_eq_some_iff.mp hr'
  refine .inr ⟨r, hr, ?_⟩
  unfold Record.afterTick at hafter
  split at hafter
  · simp only [Option.ite_none_left_eq_some, Option.some.injEq] at hafter
    obtain ⟨-, rfl⟩ := hafter
    exact (shrunk_ticked r).granted (grantRun_spec _ r.ticked.queue r.ticked)
  · obtain rfl := Option.some.inj hafter
    exact (shrunk_ticked r).relieved

theorem endWait_noCycleLaw {s : State} (hs : s.NoCycleLaw) (st : StationId) : (s.endWait st).NoCycleLaw := by
  unfold State.endWait
  split
  · exact hs
  · next i r w hw =>
    obtain ⟨hr, -, -⟩ := s.waitOf_spec st i r w hw
    exact (relieved_settle_setRecord hr (shrunk_filter r _)).noCycleLaw hs

/-! ### The entry of a wait -/

/-- New edges into one vertex close no cycle where no path leads from it to the start of one of them. -/
theorem acyclic_of_new_edges_into {α : Type} {R S : α → α → Prop} {B : α → Prop} {x : α}
    (hR : ∀ a, ¬ Relation.TransGen R a a) (hS : ∀ a b, S a b → R a b ∨ (b = x ∧ B a))
    (hB : ∀ a, B a → a ≠ x ∧ ¬ Relation.TransGen R x a) (a : α) : ¬ Relation.TransGen S a a := by
  have hpath (b : α) (h : Relation.TransGen S a b) :
      Relation.TransGen R a b ∨ ∃ y, B y ∧ Relation.ReflTransGen R a y ∧ Relation.ReflTransGen R x b := by
    induction h with
    | single hstep =>
      rcases hS _ _ hstep with hold | ⟨rfl, hnew⟩
      · exact .inl (.single hold)
      · exact .inr ⟨a, hnew, .refl, .refl⟩
    | tail _ hstep ih =>
      rcases hS _ _ hstep with hold | ⟨rfl, hnew⟩
      · exact ih.imp (·.tail hold) fun ⟨y, hy, hay, hx⟩ => ⟨y, hy, hay, hx.tail hold⟩
      · rcases ih with hR' | ⟨y, hy, hay, -⟩
        · exact .inr ⟨_, hnew, hR'.to_reflTransGen, .refl⟩
        · exact .inr ⟨y, hy, hay, .refl⟩
  intro hcycle
  rcases hpath a hcycle with hold | ⟨y, hy, hay, hxa⟩
  · exact hR a hold
  · obtain ⟨hne, hno⟩ := hB y hy
    rcases Relation.reflTransGen_iff_eq_or_transGen.mp (hxa.trans hay) with rfl | hxy
    · exact hne rfl
    · exact hno hxy

theorem State.entriesAt_eq_zero {s : State} {a : StationId} (h : ¬ s.Waiting a) (i : SlotId) : s.entriesAt a i = 0 := by
  cases hr : s.record i with
  | none => exact State.entriesAt_none hr a
  | some r =>
    rw [State.entriesAt_some hr, List.count_eq_zero]
    exact fun hm => h ((s.waiting_iff_mem_line a).mpr ⟨i, r, hr, hm⟩)

/-- A station without a wait may enter one line (R52). -/
theorem State.OneWaitLaw.enter {s : State} (hs : s.OneWaitLaw) {i : SlotId} {r r' : Record} {st : StationId}
    (hr : s.record i = some r) (hwait : ¬ s.Waiting st) (hline : r'.line.Perm (st :: r.line)) :
    (s.setRecord i (some r')).OneWaitLaw := by
  have hentries (a : StationId) : (s.setRecord i (some r')).entriesAt a =
      fun j => s.entriesAt a j + if a = st ∧ j = i then 1 else 0 := by
    funext j
    by_cases hj : j = i
    · subst hj
      rw [State.entriesAt_some (s.record_setRecord_same j _), State.entriesAt_some hr, hline.count_eq, List.count_cons]
      simp [@eq_comm _ st a]
    · have hsame : (s.setRecord i (some r')).record j = s.record j := s.record_setRecord_ne i j _ hj
      simp only [State.entriesAt, hsame, hj, and_false, if_false, Nat.add_zero]
  intro a
  rw [State.waiterEntries_eq, hentries]
  by_cases ha : a = st
  · subst ha
    simp only [State.entriesAt_eq_zero hwait, true_and, Nat.zero_add]
    rw [allSlots, ← List.ofFn_eq_map, List.sum_ofFn, Finset.sum_ite_eq' Finset.univ i]
    simp
  · simp only [ha, false_and, if_false, Nat.add_zero]
    exact hs a

/-- A station without a wait enters the line of a record: the wait it enters closes no cycle where all that comes to stand
before it is a blocker, and no chain leads from it to a blocker (R61 to R63). -/
theorem State.NoCycleLaw.enter {s : State} (hs : s.NoCycleLaw) {i : SlotId} {r r' : Record} {st : StationId}
    {blockers : List StationId} (hr : s.record i = some r) (hwait : ¬ s.Waiting st)
    (hline : r'.line.Perm (st :: r.line)) (hbefore : ∀ a b, r'.Before a b → r.Before a b ∨ (b = st ∧ a ∈ blockers))
    (hself : st ∉ blockers) (hchain : ∀ b ∈ blockers, ¬ s.ChainTo st b) :
    (s.setRecord i (some r')).NoCycleLaw := by
  have hone := hs.1.enter hr hwait hline
  have hedges (a b : StationId) (hab : (s.setRecord i (some r')).StandsBefore a b) :
      s.StandsBefore a b ∨ (b = st ∧ a ∈ blockers) := by
    rw [State.standsBefore_iff hone] at hab
    rw [State.standsBefore_iff hs.1]
    obtain ⟨j, q, hq, hab⟩ := hab
    rw [State.record_setRecord] at hq
    split at hq
    · obtain rfl := Option.some.inj hq
      exact (hbefore a b hab).imp_left fun hold => ⟨i, r, hr, hold⟩
    · exact .inl ⟨j, q, hq, hab⟩
  exact ⟨hone, acyclic_of_new_edges_into hs.2 hedges fun b hb => ⟨fun e => hself (e ▸ hb), hchain b hb⟩⟩

/-- What precedes another element in a list with one more at its tail preceded it, or precedes that one. -/
theorem pair_sublist_concat {α : Type} {l : List α} {a b x : α} (h : [a, b].Sublist (l ++ [x])) :
    [a, b].Sublist l ∨ (b = x ∧ a ∈ l) := by
  induction l with
  | nil => exact absurd h.length_le (by simp)
  | cons y ys ih =>
    rw [List.cons_append] at h
    rcases List.cons_sublist_cons'.mp h with htail | ⟨rfl, hb⟩
    · exact (ih htail).imp (·.cons y) fun ⟨hx, ha⟩ => ⟨hx, List.mem_cons_of_mem y ha⟩
    · rcases List.mem_append.mp (List.singleton_sublist.mp hb) with hold | hnew
      · exact .inl ((List.singleton_sublist.mpr hold).cons_cons a)
      · exact .inr ⟨List.mem_singleton.mp hnew, List.mem_cons_self⟩

/-- A claim wait enters at the tail, where its record's holders and waiters come to stand before it, and it before none
(R51, R62). -/
theorem enterClaimWait_noCycleLaw {s : State} (hs : s.NoCycleLaw) {i : SlotId} {r : Record} (w : Waiter)
    (hr : s.record i = some r) (hh : r.holding w.station = none)
    (hw : s.waitRefusal w.station r.claimBlockers = none) : (s.enterClaimWait i r w).NoCycleLaw := by
  obtain ⟨hwait, hchain⟩ := waitRefusal_eq_none hs.1 hw
  have hmem (a : StationId) : a ∈ r.claimBlockers ↔ r.holding a ≠ none ∨ a ∈ r.line := by
    simp [Record.claimBlockers, mem_allStations, r.holds_iff, r.waits_iff_mem_line]
  have hout : w.station ∉ r.line := fun hm => hwait ((s.waiting_iff_mem_line _).mpr ⟨i, r, hr, hm⟩)
  have hline : ({ r with queue := r.queue ++ [w] } : Record).line = r.line ++ [w.station] := List.map_append
  refine hs.enter hr hwait ?_ (fun a b hab => ?_) ?_ hchain
  · rw [hline]
    exact List.perm_append_singleton _ _
  · rw [hmem]
    unfold Record.Before at hab ⊢
    rw [hline] at hab
    rcases hab with ⟨ha, hab, hb⟩ | hpair
    · rcases List.mem_append.mp hb with hb | hb
      · exact .inl (.inl ⟨ha, hab, hb⟩)
      · exact .inr ⟨List.mem_singleton.mp hb, .inl ha⟩
    · rcases pair_sublist_concat hpair with hold | ⟨rfl, ha⟩
      · exact .inl (.inr hold)
      · exact .inr ⟨rfl, .inr ha⟩
  · rw [hmem]
    simp [hh, hout]

/-- An upgrade wait enters at the head: the other holders come to stand before it, and it, a holder, stood before all in
line already (R53, R62). -/
theorem enterUpgradeWait_noCycleLaw {s : State} (hs : s.NoCycleLaw) {i : SlotId} {r : Record} (w : Waiter)
    (hr : s.record i = some r) (hh : r.holding w.station ≠ none)
    (hw : s.waitRefusal w.station (r.upgradeBlockers w.station) = none) : (s.enterUpgradeWait i r w).NoCycleLaw := by
  obtain ⟨hwait, hchain⟩ := waitRefusal_eq_none hs.1 hw
  have hmem (a : StationId) : a ∈ r.upgradeBlockers w.station ↔ r.holding a ≠ none ∧ a ≠ w.station := by
    simp [Record.upgradeBlockers, mem_allStations, r.holds_iff]
  have hout : w.station ∉ r.line := fun hm => hwait ((s.waiting_iff_mem_line _).mpr ⟨i, r, hr, hm⟩)
  have hne {b : StationId} (hb : b ∈ r.line) : w.station ≠ b := fun e => hout (e ▸ hb)
  refine hs.enter hr hwait (.refl _) (fun a b hab => ?_) ?_ hchain
  · rw [hmem]
    rcases hab with ⟨ha, hab, hb⟩ | hpair
    · rcases List.mem_cons.mp hb with rfl | hb
      · exact .inr ⟨rfl, ha, hab⟩
      · exact .inl (.inl ⟨ha, hab, hb⟩)
    · rcases List.cons_sublist_cons'.mp hpair with hold | ⟨rfl, hb⟩
      · exact .inl (.inr hold)
      · have hb := List.singleton_sublist.mp hb
        exact .inl (.inl ⟨hh, hne hb, hb⟩)
  · rw [hmem]
    simp

/-! ### The commands -/

theorem shrunk_adopted (s : State) (r : Record) (a : Attributes) : r.Shrunk (s.adopted r a) :=
  shrunk_mapHoldings { r with kind := .standing, attrs := a } _

theorem shrunk_amended (s : State) (r : Record) (a : Attributes) : r.Shrunk (s.amended r a) := by
  unfold State.amended
  split
  · exact shrunk_of_eq rfl rfl
  · exact shrunk_mapHoldings { r with attrs := a } _

theorem refitSlot_noCycleLaw (k : ClassId) (length : Byte) (u : State) (i : SlotId) (hu : u.NoCycleLaw) :
    (u.refitSlot k length i).NoCycleLaw := by
  unfold State.refitSlot
  split
  · exact hu
  · next r hr =>
    split
    · exact (relieved_setRecord hr (shrunk_mapHoldings r _)).noCycleLaw hu
    · exact hu

section Commands

variable {s : State} (hs : s.NoCycleLaw) (st : StationId) (c : Captured)
include hs

/-- A change of a holding that the record had. -/
theorem setHolding_noCycleLaw {i : SlotId} {r : Record} {h : Holding} (hr : s.record i = some r)
    (hh : r.holding st = some h) (g : Option Holding) : (s.setRecord i (some (r.setHolding st g))).NoCycleLaw :=
  (relieved_setRecord hr (shrunk_setHolding g hh)).noCycleLaw hs

/-- A grant to a claim makes a holder where no station is in line. -/
theorem grantAtOnce_noCycleLaw (i : SlotId) {r : Record} (hq : r.queue = []) (m : Mode) :
    (s.grantAtOnce i r st m).NoCycleLaw := by
  have hempty : ∀ q ∈ some (r.setHolding st (some ⟨m, 1, s.classLease r.attrs.leaseClass⟩)), q.queue = [] := by
    simpa using hq
  exact State.Relieved.noCycleLaw (relieved_setRecord_of_queue i hempty) hs

theorem claimAbsent_noCycleLaw (n : LockName) (m : Mode) : (claimAbsent s st n m).1.NoCycleLaw := by
  unfold claimAbsent
  split
  · exact hs
  · split_ifs
    · exact hs
    · exact hs
    · exact grantAtOnce_noCycleLaw hs st _ rfl m

theorem claimHeld_noCycleLaw (m : Mode) {i : SlotId} {r : Record} {h : Holding} (hr : s.record i = some r)
    (hh : r.holding st = some h) : (claimHeld s st m i r h).1.NoCycleLaw := by
  unfold claimHeld
  split_ifs
  · exact hs
  · exact hs
  · exact setHolding_noCycleLaw hs st hr hh _

theorem claimNew_noCycleLaw (m : Mode) (limit : Byte) {i : SlotId} {r : Record} (hr : s.record i = some r)
    (hh : r.holding st = none) : (claimNew s st m limit i r).1.NoCycleLaw := by
  unfold claimNew
  split
  · exact hs
  · split
    · next hnow => exact grantAtOnce_noCycleLaw hs st i ((r.grantableNow_iff m).mp hnow).1 m
    · split
      · exact hs
      · split
        · exact hs
        · next hw => exact enterClaimWait_noCycleLaw hs ⟨st, Request.ofMode m, Deadline.ofLimit limit⟩ hr hh hw

theorem claimCommand_noCycleLaw : (claimCommand st c s).1.NoCycleLaw := by
  unfold claimCommand
  split
  · exact hs
  · next m _ =>
    split
    · exact hs
    · split
      · exact claimAbsent_noCycleLaw hs st _ m
      · next i r hl =>
        have hr := State.record_of_lookup hl
        split_ifs
        · exact hs
        · exact hs
        · split
          · next h hh => exact claimHeld_noCycleLaw hs st m hr hh
          · next hh => exact claimNew_noCycleLaw hs st m c.s3 hr hh

theorem releaseCommand_noCycleLaw : (releaseCommand st c s).1.NoCycleLaw := by
  unfold releaseCommand
  split
  · exact hs
  · split
    · exact hs
    · next i r h hu =>
      obtain ⟨hr, hh⟩ := State.record_of_holdingUnder hu
      split_ifs
      · exact hs
      · exact (relieved_settle_dropHolding hr (.refl r) hh).noCycleLaw hs
      · exact setHolding_noCycleLaw hs st hr hh _

theorem downgradeCommand_noCycleLaw : (downgradeCommand st c s).1.NoCycleLaw := by
  unfold downgradeCommand
  split
  · exact hs
  · split
    · exact hs
    · next i r h hu =>
      obtain ⟨hr, hh⟩ := State.record_of_holdingUnder hu
      split_ifs
      · exact hs
      · exact hs
      · exact (relieved_settle_setRecord hr (shrunk_setHolding _ hh)).noCycleLaw hs

theorem upgradeCommand_noCycleLaw : (upgradeCommand st c s).1.NoCycleLaw := by
  unfold upgradeCommand
  split
  · exact hs
  · split
    · exact hs
    · next i r h hu =>
      obtain ⟨hr, hh⟩ := State.record_of_holdingUnder hu
      have hholds : r.holding st ≠ none := by simp [hh]
      split
      · exact hs
      · split
        · exact hs
        · split
          · exact setHolding_noCycleLaw hs st hr hh _
          · split
            · exact hs
            · split
              · exact hs
              · next hw => exact enterUpgradeWait_noCycleLaw hs ⟨st, .upgrade, Deadline.ofLimit c.s3⟩ hr hholds hw

theorem renewCommand_noCycleLaw : (renewCommand st c s).1.NoCycleLaw := by
  unfold renewCommand
  split
  · exact hs
  · split
    · exact hs
    · next i r h hu =>
      obtain ⟨hr, hh⟩ := State.record_of_holdingUnder hu
      exact setHolding_noCycleLaw hs st hr hh _

theorem clearTaintCommand_noCycleLaw : (clearTaintCommand st c s).1.NoCycleLaw := by
  unfold clearTaintCommand
  split
  · exact hs
  · split
    · exact hs
    · next i r h hu =>
      obtain ⟨hr, -⟩ := State.record_of_holdingUnder hu
      split
      · exact hs
      · have hcleared : r.Shrunk { r with taint := none } := shrunk_of_eq rfl rfl
        exact (relieved_setRecord hr hcleared).noCycleLaw hs

theorem defineAbsent_noCycleLaw (n : LockName) (a : Attributes) : (defineAbsent n a s).1.NoCycleLaw := by
  unfold defineAbsent
  split
  · exact hs
  · split
    · exact hs
    · next i _ =>
      have hempty : ∀ q ∈ some (newStanding n a), q.queue = [] := by simp [newStanding]
      exact State.Relieved.noCycleLaw (relieved_setRecord_of_queue i hempty) hs

theorem defineCommand_noCycleLaw : (defineCommand st c s).1.NoCycleLaw := by
  unfold defineCommand
  split
  · exact hs
  · split
    · exact hs
    · split
      · exact defineAbsent_noCycleLaw hs _ _
      · next i r hl =>
        split_ifs
        · exact hs
        · exact hs
        · exact hs
        · have hr : (s.setStandingCount (s.standingCount + 1)).record i = some r := State.record_of_lookup hl
          exact (relieved_storeAmended hr (shrunk_adopted _ r _)).noCycleLaw hs

theorem amendCommand_noCycleLaw : (amendCommand st c s).1.NoCycleLaw := by
  unfold amendCommand
  split
  · exact hs
  · split
    · exact hs
    · split
      · exact hs
      · next i r hl =>
        split_ifs
        · exact hs
        · exact hs
        · exact (relieved_storeAmended (State.record_of_lookup hl) (shrunk_amended s r _)).noCycleLaw hs

theorem retireCommand_noCycleLaw : (retireCommand st c s).1.NoCycleLaw := by
  unfold retireCommand
  split
  · exact hs
  · split
    · exact hs
    · next i r _ =>
      split
      · exact hs
      · have hfreed : s.Relieved (s.setRecord i none) := relieved_setRecord_of_queue i (by simp)
        exact State.Relieved.noCycleLaw hfreed hs

theorem configureClassCommand_noCycleLaw : (configureClassCommand st c s).1.NoCycleLaw := by
  unfold configureClassCommand
  split
  · next k e _ _ =>
    dsimp only
    have hstored : (s.setClass k e).NoCycleLaw := (State.relieved_of_slots (s.setClass_slots k e)).noCycleLaw hs
    exact foldl_holds (State.refitSlot k e.length) State.NoCycleLaw (refitSlot_noCycleLaw k e.length) allSlots _ hstored
  · exact hs

theorem walkEffect_noCycleLaw (w : Walk) : (walkEffect w s).1.NoCycleLaw := by
  unfold walkEffect
  split
  · exact hs
  · next r hr =>
    split
    · exact hs
    · next h hh =>
      dsimp only
      split
      · have htainted : r.Shrunk { r with taint := some w.target } := shrunk_of_eq rfl rfl
        exact (relieved_settle_dropHolding hr htainted hh).noCycleLaw hs
      · exact (relieved_settle_dropHolding hr (.refl r) hh).noCycleLaw hs

end Commands

/-! ### Every step -/

/-- At reset there is no record, and so no wait (R1). -/
theorem noCycleLaw_reset : State.reset.NoCycleLaw := by
  have hnone (i : SlotId) : State.reset.record i = none := by simp [State.record, State.reset]
  have hone : State.reset.OneWaitLaw := fun a => by
    have hentries : State.reset.entriesAt a = fun _ => 0 := funext fun i => State.entriesAt_none (hnone i) a
    rw [State.waiterEntries_eq, hentries]
    simp
  refine ⟨hone, fun a hcycle => ?_⟩
  obtain ⟨b, -, i, r, hr, -⟩ := Relation.TransGen.tail'_iff.mp hcycle
  rw [hnone i] at hr
  exact absurd hr (by simp)

/-- All work on the table keeps R61. -/
theorem noCycleLaw_kept : KeptByTableWork State.NoCycleLaw where
  congr h hs := (State.relieved_of_slots h.1).noCycleLaw hs
  atReset := noCycleLaw_reset
  claim st c _ hs := claimCommand_noCycleLaw hs st c
  release st c _ hs := releaseCommand_noCycleLaw hs st c
  downgrade st c _ hs := downgradeCommand_noCycleLaw hs st c
  upgrade st c _ hs := upgradeCommand_noCycleLaw hs st c
  renew st c _ hs := renewCommand_noCycleLaw hs st c
  clearTaint st c _ hs := clearTaintCommand_noCycleLaw hs st c
  define st c _ hs := defineCommand_noCycleLaw hs st c
  amend st c _ hs := amendCommand_noCycleLaw hs st c
  retire st c _ hs := retireCommand_noCycleLaw hs st c
  configureClass st c _ hs := configureClassCommand_noCycleLaw hs st c
  endWait st _ hs := endWait_noCycleLaw hs st
  walkEffect w _ hs := walkEffect_noCycleLaw hs w
  tickTable s hs := (relieved_tickTable s).noCycleLaw hs

/-- Settles O58: each step only relieves records, or enters a wait whose probe found no chain back to its station. -/
theorem noDeadlockCycleKept : Obligations.NoDeadlockCycleKept := fun _ _ hs h => noCycleLaw_kept.step hs h

end Sys2Proof.Machine
end

section
/-!
SUPPORT. RENEW and CLEAR TAINT, branch by branch of their checks, behind the two checks that open both of their tables. With
it, O24.
-/

namespace Sys2Proof.Machine

section Holder

variable {s : State} {st : StationId} {c : Captured} {i : SlotId} {r : Record} {h : Holding}

/-! ### The checks before the holding -/

/-- The two rows that open a holder's table of checks, BAD_NAME and NOT_HOLDER: what follows them decides for a station
that holds the named record. -/
theorem firstApplies_of_holder {code : ResultCode} {rest : List (Prop × ResultCode)} (hN : s.NamesLaw)
    (hbadName : c.name = 0 → code = .badName)
    (hnotHolder : c.name ≠ 0 → s.holdingUnder st c.name = none → code = .notHolder)
    (hholder : ∀ i r h, s.Named c.name i r → r.holding st = some h → FirstApplies rest code) :
    FirstApplies
      ((c.name = 0, .badName) :: (¬ ∃ i r h, s.Named c.name i r ∧ r.holding st = some h, .notHolder) :: rest) code := by
  by_cases hz : c.name = 0
  · rw [hbadName hz]
    exact .here hz
  refine .skip hz ?_
  by_cases hheld : ∃ i r h, s.Named c.name i r ∧ r.holding st = some h
  · obtain ⟨i, r, h, hn, hh⟩ := hheld
    exact .skip (not_not_intro ⟨i, r, h, hn, hh⟩) (hholder i r h hn hh)
  · rw [hnotHolder hz ((s.holdingUnder_eq_none hN st c.name).mpr hheld)]
    exact .here hheld

/-! ### RENEW -/

theorem renewCommand_badName (hz : c.name = 0) : renewCommand st c s = (s, .bare .badName) := by
  simp [renewCommand, hz]

theorem renewCommand_notHolder (hz : c.name ≠ 0) (hu : s.holdingUnder st c.name = none) :
    renewCommand st c s = (s, .bare .notHolder) := by
  rw [renewCommand, if_neg hz]
  simp [hu]

/-- A holder's RENEW reloads its lease, and reports the length of the class (R77, R78). -/
theorem renewCommand_done (hN : s.NamesLaw) (hn : s.Named c.name i r) (hh : r.holding st = some h) :
    renewCommand st c s =
      (s.setRecord i (some (r.setHolding st (some { h with lease := s.classLease r.attrs.leaseClass }))),
        ⟨.done, (s.leaseClass r.attrs.leaseClass).length, 0, 0, 0⟩) := by
  have hu := (s.holdingUnder_eq_some hN st c.name i r h).mpr ⟨hn, hh⟩
  have hfull : leaseByte (s.classLease r.attrs.leaseClass) = (s.leaseClass r.attrs.leaseClass).length :=
    leaseByte_fullLease _
  rw [renewCommand, if_neg (hn.ne_zero hN)]
  simp [hu, hfull]

theorem renewCommand_checks (hN : s.NamesLaw) : FirstApplies
    [(c.name = 0, .badName),
     (¬ ∃ i r h, s.Named c.name i r ∧ r.holding st = some h, .notHolder),
     (True, .done)]
    (renewCommand st c s).2.code := by
  refine firstApplies_of_holder hN (fun hz => ?_) (fun hz hu => ?_) fun i r h hn hh => ?_
  · rw [renewCommand_badName hz]
    rfl
  · rw [renewCommand_notHolder hz hu]
    rfl
  · rw [renewCommand_done hN hn hh]
    exact .here trivial

/-! ### CLEAR TAINT -/

theorem clearTaintCommand_badName (hz : c.name = 0) : clearTaintCommand st c s = (s, .bare .badName) := by
  simp [clearTaintCommand, hz]

theorem clearTaintCommand_notHolder (hz : c.name ≠ 0) (hu : s.holdingUnder st c.name = none) :
    clearTaintCommand st c s = (s, .bare .notHolder) := by
  rw [clearTaintCommand, if_neg hz]
  simp [hu]

theorem clearTaintCommand_badMode (hN : s.NamesLaw) (hn : s.Named c.name i r) (hh : r.holding st = some h)
    (hm : h.mode = .shared) : clearTaintCommand st c s = (s, .bare .badMode) := by
  have hu := (s.holdingUnder_eq_some hN st c.name i r h).mpr ⟨hn, hh⟩
  rw [clearTaintCommand, if_neg (hn.ne_zero hN)]
  simp [hu, hm]

/-- The exclusive holder's CLEAR TAINT leaves the taint clear, and reports the taint as it stood (R88). -/
theorem clearTaintCommand_done (hN : s.NamesLaw) (hn : s.Named c.name i r) (hh : r.holding st = some h)
    (hm : h.mode ≠ .shared) :
    clearTaintCommand st c s =
      (s.setRecord i (some { r with taint := none }), ⟨.done, flagByte r.taint.isSome, revokedByte r.taint, 0, 0⟩) := by
  have hu := (s.holdingUnder_eq_some hN st c.name i r h).mpr ⟨hn, hh⟩
  rw [clearTaintCommand, if_neg (hn.ne_zero hN)]
  simp [hu, hm]

theorem clearTaintCommand_checks (hN : s.NamesLaw) : FirstApplies
    [(c.name = 0, .badName),
     (¬ ∃ i r h, s.Named c.name i r ∧ r.holding st = some h, .notHolder),
     (∃ i r h, s.Named c.name i r ∧ r.holding st = some h ∧ h.mode = .shared, .badMode),
     (True, .done)]
    (clearTaintCommand st c s).2.code := by
  refine firstApplies_of_holder hN (fun hz => ?_) (fun hz hu => ?_) fun i r h hn hh => ?_
  · rw [clearTaintCommand_badName hz]
    rfl
  · rw [clearTaintCommand_notHolder hz hu]
    rfl
  · have hshared := State.exists_held_iff hN hn hh fun _ _ g => g.mode = .shared
    by_cases hm : h.mode = .shared
    · rw [clearTaintCommand_badMode hN hn hh hm]
      exact .here (hshared.mpr hm)
    · rw [clearTaintCommand_done hN hn hh hm]
      exact .skip (mt hshared.mp hm) (.here trivial)

/-- Where the taint is clear already, CLEAR TAINT changes nothing (R88). -/
theorem clearTaintCommand_of_clear (hN : s.NamesLaw) (hn : s.Named c.name i r) (hh : r.holding st = some h)
    (hm : h.mode ≠ .shared) (ht : r.taint = none) : clearTaintCommand st c s = (s, .bare .done) := by
  have hcleared : s.record i = some { r with taint := none } := by rw [← ht]; exact hn.1
  rw [clearTaintCommand_done hN hn hh hm, s.setRecord_self i _ hcleared, ht]
  rfl

/-- Where the taint is set, CLEAR TAINT names the revoked station that it clears (R88). -/
theorem clearTaintCommand_of_tainted {a : StationId} (hN : s.NamesLaw) (hn : s.Named c.name i r)
    (hh : r.holding st = some h) (hm : h.mode ≠ .shared) (ht : r.taint = some a) :
    clearTaintCommand st c s = (s.setRecord i (some { r with taint := none }), ⟨.done, 1, byteOf a.val, 0, 0⟩) := by
  rw [clearTaintCommand_done hN hn hh hm, ht]
  rfl

end Holder

/-! ### The statement -/

/-- Settles O24: each command's answer to a holder is one write of its record, which leaves a taint that was clear as it
stood. -/
theorem renewAndClearTaint : Obligations.RenewAndClearTaint := by
  intro s st c hN
  refine ⟨fun hdue => ?renew, fun hdue => ?clearTaint⟩
  case renew =>
    have hexec := exec_renew_due hdue
    refine ⟨posted_code hexec (renewCommand_checks hN), fun i r h hn hh => ?_⟩
    rw [hexec, renewCommand_done hN hn hh]
    rfl
  case clearTaint =>
    have hexec := exec_clearTaint_due hdue
    refine ⟨posted_code hexec (clearTaintCommand_checks hN), fun i r h hn hh hm => ?_⟩
    have hexclusive : h.mode ≠ .shared := by simp [hm]
    constructor
    · intro ht
      rw [hexec, clearTaintCommand_of_clear hN hn hh hexclusive ht]
      rfl
    · intro a ht
      rw [hexec, clearTaintCommand_of_tainted hN hn hh hexclusive ht]
      rfl

end Sys2Proof.Machine
end

section
/-!
SUPPORT. Each row of the engine once: the turn it runs, when that turn is due, and that it does nothing else. What the
statements on the command engine share.
-/

namespace Sys2Proof.Machine

/-! ### Which row a turn is -/

/-- The row of a later turn of a walk (R122). -/
def WalkKind.row (st : StationId) : WalkKind → Instr
  | .detach => .detachWalkStep st
  | .purge => .purgeWalkStep st

/-- What the code names that a row's turn executes: `some none` for the row of the codes that name no command, and none for
the rows that execute no captured code (R120). -/
def turnNames : Instr → Option (Option Command)
  | .attach _ => some (some .attach)
  | .detach _ => some (some .detach)
  | .claim _ => some (some .claim)
  | .release _ => some (some .release)
  | .downgrade _ => some (some .downgrade)
  | .upgrade _ => some (some .upgrade)
  | .renew _ => some (some .renew)
  | .cancel _ => some (some .cancel)
  | .clearTaint _ => some (some .clearTaint)
  | .inspect _ => some (some .inspect)
  | .listFirst _ => some (some .listFirst)
  | .listNext _ => some (some .listNext)
  | .stationInfo _ => some (some .stationInfo)
  | .define _ => some (some .define)
  | .amend _ => some (some .amend)
  | .retire _ => some (some .retire)
  | .configureClass _ | .configurePrescaler _ | .configureTickRun _ | .configureDefaults _ => some (some .configure)
  | .purge _ => some (some .purge)
  | .badCommand _ => some none
  | .detachWalkStep _ | .purgeWalkStep _ | .leaseTick | .leaseExpiry _ _ | .waitTimeOut _ | .resultRead _ | .statusRead _
  | .noticeTake _ | .maskSet _ _ | .maskClear _ _ | .faultCauseWrite _ _ | .unassignedOffset _ _ _ | .windowWrite _ _ _
  | .reset _ => none

@[simp] theorem turnStation_row (st : StationId) (kind : WalkKind) : turnStation (kind.row st) = some st := by
  cases kind <;> rfl

@[simp] theorem turnNames_row (st : StationId) (kind : WalkKind) : turnNames (kind.row st) = none := by
  cases kind <;> rfl

/-- The row of a captured code executes what the code names. -/
@[simp] theorem turnNames_turnRow (st : StationId) (c : Captured) : turnNames (turnRow st c) = some c.command := by
  unfold turnRow
  split
  case h_19 hc => rw [hc]; split <;> rfl
  all_goals next hc => rw [hc]; rfl

theorem WalkKind.row_injective (st : StationId) : Function.Injective (WalkKind.row st) := by
  intro k l h
  cases k with
  | detach =>
    cases l with
    | detach => rfl
    | purge => exact Instr.noConfusion h
  | purge =>
    cases l with
    | detach => exact Instr.noConfusion h
    | purge => rfl

theorem turnRow_ne_row (st a : StationId) (c : Captured) (kind : WalkKind) : turnRow st c ≠ kind.row a := by
  intro h
  have hnames := congrArg turnNames h
  rw [turnNames_turnRow, turnNames_row] at hnames
  exact Option.some_ne_none _ hnames

theorem turnRow_eq_badCommand (st : StationId) (c : Captured) : turnRow st c = .badCommand st ↔ c.command = none := by
  constructor
  · intro h
    have hnames := congrArg turnNames h
    rw [turnNames_turnRow] at hnames
    exact Option.some.inj hnames
  · intro hc
    simp [turnRow, hc]

/-- The row executes the captured codes that name the command, those of them that `mine` picks. -/
structure RowOf (st : StationId) (i : Instr) (cmd : Command) (mine : Captured → Bool) : Prop where
  names : turnNames i = some (some cmd)
  picks : ∀ c, c.command = some cmd → (turnRow st c = i ↔ mine c = true)

/-- The rows that stand for their command whatever its operands are. -/
theorem rowOf_anyOperands {st : StationId} {i : Instr} {cmd : Command} (hi : turnNames i = some (some cmd))
    (h : ∀ c, c.command = some cmd → turnRow st c = i) : RowOf st i cmd anyOperands :=
  ⟨hi, fun c hc => iff_of_true (h c hc) rfl⟩

/-- The captured codes of a row name its command and are picked by it. -/
theorem RowOf.of_turnRow {st : StationId} {c : Captured} {cmd : Command} {mine : Captured → Bool}
    (h : RowOf st (turnRow st c) cmd mine) : c.command = some cmd ∧ mine c = true := by
  have hnames := h.names
  rw [turnNames_turnRow] at hnames
  have hc := Option.some.inj hnames
  exact ⟨hc, (h.picks c hc).mp rfl⟩

/-- Which of its four rows a CONFIGURE is, by what its selector names (R161). -/
theorem turnRow_configure {st : StationId} {c : Captured} (hc : c.command = some .configure) :
    (turnRow st c = .configureClass st ↔ selectsClass c = true)
      ∧ (turnRow st c = .configurePrescaler st ↔ selectsPrescaler c = true)
      ∧ (turnRow st c = .configureTickRun st ↔ selectsTickRun c = true)
      ∧ (turnRow st c = .configureDefaults st ↔ selectsDefaults c = true) := by
  unfold turnRow selectsClass selectsPrescaler selectsTickRun selectsDefaults
  rw [hc]
  cases c.selector with
  | none => simp
  | some sel => cases sel <;> simp

/-- The rows of the engine: a captured command's, the row of the codes that name none, and the two of the walks. -/
theorem exec_engineRow {i : Instr} {st : StationId} (hi : turnStation i = some st) :
    (∃ cmd mine own, RowOf st i cmd mine ∧ ∀ s, exec i s = unlessReset s (commandTurn st cmd mine own))
      ∨ i = .badCommand st ∨ ∃ kind : WalkKind, i = kind.row st := by
  cases i <;> cases hi
  case badCommand => exact .inr (.inl rfl)
  case detachWalkStep => exact .inr (.inr ⟨.detach, rfl⟩)
  case purgeWalkStep => exact .inr (.inr ⟨.purge, rfl⟩)
  case configureClass =>
    exact .inl ⟨_, _, _, ⟨rfl, fun _ hc => (turnRow_configure hc).1⟩, fun _ => rfl⟩
  case configurePrescaler =>
    exact .inl ⟨_, _, _, ⟨rfl, fun _ hc => (turnRow_configure hc).2.1⟩, fun _ => rfl⟩
  case configureTickRun =>
    exact .inl ⟨_, _, _, ⟨rfl, fun _ hc => (turnRow_configure hc).2.2.1⟩, fun _ => rfl⟩
  case configureDefaults =>
    exact .inl ⟨_, _, _, ⟨rfl, fun _ hc => (turnRow_configure hc).2.2.2⟩, fun _ => rfl⟩
  all_goals exact .inl ⟨_, _, _, rowOf_anyOperands rfl fun c hc => by rw [turnRow, hc], fun _ => rfl⟩

/-! ### When a row is the next turn -/

theorem State.turnDue_of_pendingTurn {s : State} {st : StationId} {c : Captured} (h : s.pendingTurn st = some c) :
    s.turnDue = some (turnRow st c) := by
  obtain ⟨ha, hslot⟩ := (s.pendingTurn_eq_some st c).mp h
  simp [State.turnDue, ha, hslot]

theorem State.turnDue_of_walkTurn {s : State} {st : StationId} {c : Captured} {w : Walk}
    (h : s.walkTurn st = some (c, w)) : s.turnDue = some (w.kind.row st) := by
  obtain ⟨ha, hslot⟩ := (s.walkTurn_eq_some st c w).mp h
  unfold State.turnDue
  rw [ha]
  dsimp only
  rw [hslot]
  dsimp only
  cases w.kind <;> rfl

/-- The next turn executes a captured command or takes a step of a walk, in the slot of the arbiter's station. -/
theorem State.turnDue_cases {s : State} {i : Instr} (h : s.turnDue = some i) :
    ∃ st, (∃ c, s.pendingTurn st = some c ∧ i = turnRow st c)
      ∨ ∃ c w, s.walkTurn st = some (c, w) ∧ i = w.kind.row st := by
  cases ha : s.arbiter with
  | none => simp [State.turnDue, ha] at h
  | some st =>
    refine ⟨st, ?_⟩
    cases hslot : (s.ctx st).slot with
    | empty => simp [State.turnDue, ha, hslot] at h
    | pending c =>
      have hp := (s.pendingTurn_eq_some st c).mpr ⟨ha, hslot⟩
      exact .inl ⟨c, hp, Option.some.inj (h.symm.trans (State.turnDue_of_pendingTurn hp))⟩
    | executing c w =>
      have hw := (s.walkTurn_eq_some st c w).mpr ⟨ha, hslot⟩
      exact .inr ⟨c, w, hw, Option.some.inj (h.symm.trans (State.turnDue_of_walkTurn hw))⟩

/-- When the row of a station is the next turn. -/
theorem State.turnDue_eq_some {s : State} {i : Instr} {st : StationId} (hi : turnStation i = some st) :
    s.turnDue = some i ↔ (∃ c, s.pendingTurn st = some c ∧ i = turnRow st c)
      ∨ ∃ c w, s.walkTurn st = some (c, w) ∧ i = w.kind.row st := by
  constructor
  · intro h
    obtain ⟨a, hturn⟩ := State.turnDue_cases h
    have ha : turnStation i = some a := by
      rcases hturn with ⟨c, -, rfl⟩ | ⟨c, w, -, rfl⟩
      · exact turnStation_turnRow a c
      · exact turnStation_row a w.kind
    obtain rfl := Option.some.inj (ha.symm.trans hi)
    exact hturn
  · rintro (⟨c, hp, rfl⟩ | ⟨c, w, hw, rfl⟩)
    · exact State.turnDue_of_pendingTurn hp
    · exact State.turnDue_of_walkTurn hw

/-- A row of a station is the next turn only where the arbiter gives that turn to the station (R118). -/
theorem State.arbiter_of_turnDue {s : State} {i : Instr} {st : StationId} (hi : turnStation i = some st)
    (hdue : s.turnDue = some i) : s.arbiter = some st := by
  rcases (State.turnDue_eq_some hi).mp hdue with ⟨c, hp, -⟩ | ⟨c, w, hw, -⟩
  · exact ((s.pendingTurn_eq_some st c).mp hp).1
  · exact ((s.walkTurn_eq_some st c w).mp hw).1

/-! ### What the turn of a row does -/

/-- The turn is served where the row is the next turn, and is no event anywhere else (R118, log entry 2). -/
structure ServedWhenDue (i : Instr) (st : StationId) (turn : State → State) : Prop where
  served : ∀ s, s.turnDue = some i → ∃ u : State, turn s = u.endTurn st
  idle : ∀ s, s.turnDue ≠ some i → turn s = s

/-- The turn of a captured command ends with a refusal or with the command's own work. -/
theorem commandTurn_served {s : State} {st : StationId} {c : Captured} {cmd : Command} {mine : Captured → Bool}
    (own : Captured → State → State) (hp : s.pendingTurn st = some c) (hc : c.command = some cmd) (hm : mine c = true) :
    ∃ u : State, commandTurn st cmd mine own s = u.endTurn st := by
  simp only [commandTurn, hp, hc, hm, and_self, if_true]
  exact ⟨_, rfl⟩

theorem commandTurn_servedWhenDue {i : Instr} {st : StationId} {cmd : Command} {mine : Captured → Bool}
    (own : Captured → State → State) (hi : turnStation i = some st) (hrow : RowOf st i cmd mine) :
    ServedWhenDue i st (commandTurn st cmd mine own) where
  served s hdue := by
    rcases (State.turnDue_eq_some hi).mp hdue with ⟨c, hp, rfl⟩ | ⟨c, w, -, rfl⟩
    · obtain ⟨hc, hm⟩ := hrow.of_turnRow
      exact commandTurn_served own hp hc hm
    · have hnames := hrow.names
      rw [turnNames_row] at hnames
      exact absurd hnames.symm (Option.some_ne_none _)
  idle s hdue := by
    refine commandTurn_notDue mine own fun c hp hc => ?_
    refine Bool.eq_false_iff.mpr fun hm => hdue ?_
    rw [← (hrow.picks c hc).mpr hm]
    exact State.turnDue_of_pendingTurn hp

theorem badCommandTurn_of_none {s : State} {st : StationId} {c : Captured} (hp : s.pendingTurn st = some c)
    (hc : c.command = none) : badCommandTurn st s = (s.complete st ⟨.badCommand, 0, 0, 0, 0⟩).endTurn st := by
  simp [badCommandTurn, hp, hc, Result.bare]

theorem badCommandTurn_servedWhenDue (st : StationId) : ServedWhenDue (.badCommand st) st (badCommandTurn st) where
  served s hdue := by
    rcases (State.turnDue_eq_some rfl).mp hdue with ⟨c, hp, hrow⟩ | ⟨c, w, -, hrow⟩
    · exact ⟨_, badCommandTurn_of_none hp ((turnRow_eq_badCommand st c).mp hrow.symm)⟩
    · have hnone : turnNames (.badCommand st) = none := by rw [hrow, turnNames_row]
      exact absurd hnone (Option.some_ne_none none)
  idle s hdue := by
    unfold badCommandTurn
    split
    · rfl
    · next c hp =>
      refine if_neg fun hc => hdue ?_
      rw [← (turnRow_eq_badCommand st c).mpr hc]
      exact State.turnDue_of_pendingTurn hp

theorem laterTurn_servedWhenDue (kind : WalkKind) (st : StationId) :
    ServedWhenDue (kind.row st) st (laterTurn kind st) where
  served s hdue := by
    rcases (State.turnDue_eq_some (turnStation_row st kind)).mp hdue with ⟨c, -, hrow⟩ | ⟨c, w, hw, hrow⟩
    · exact absurd hrow.symm (turnRow_ne_row st st c kind)
    · obtain rfl := WalkKind.row_injective st hrow
      exact ⟨_, by simp [laterTurn, hw]; rfl⟩
  idle s hdue := by
    unfold laterTurn
    split
    · rfl
    · next c w hw =>
      refine if_neg fun hk => hdue ?_
      rw [← hk]
      exact State.turnDue_of_walkTurn hw

/-- Every row of the engine runs one turn, which is served exactly where the row is the next turn. -/
theorem exec_servedWhenDue {i : Instr} {st : StationId} (hi : turnStation i = some st) :
    ∃ turn, ServedWhenDue i st turn ∧ ∀ s, exec i s = unlessReset s turn := by
  rcases exec_engineRow hi with ⟨cmd, mine, own, hrow, hexec⟩ | rfl | ⟨kind, rfl⟩
  · exact ⟨_, commandTurn_servedWhenDue own hi hrow, hexec⟩
  · exact ⟨_, badCommandTurn_servedWhenDue st, fun _ => rfl⟩
  · exact ⟨_, laterTurn_servedWhenDue kind st, fun _ => by cases kind <;> rfl⟩

end Sys2Proof.Machine
end

section
/-!
SUPPORT. R118: the arbiter's search in the rotation, and what moves the turn pointer. With it, O7.
-/

namespace Sys2Proof.Machine

/-! ### The search of the arbiter -/

theorem CommandSlot.hasWork_eq_true (slot : CommandSlot) : slot.hasWork = true ↔ slot ≠ .empty := by
  cases slot <;> simp [CommandSlot.hasWork]

theorem CommandSlot.hasWork_eq_false (slot : CommandSlot) : slot.hasWork = false ↔ slot = .empty := by
  cases slot <;> simp [CommandSlot.hasWork]

/-- A search in the rotation finds the station that answers at the least distance above the pointer. -/
theorem find_rotation_eq_some (p : StationId) (q : StationId → Bool) (st : StationId) :
    (rotation p).find? q = some st ↔ q st = true ∧ ∀ a, q a = true → st - p ≤ a - p := by
  have hdist (a : StationId) : p + (a - p) = a := add_sub_cancel p a
  unfold rotation allStations
  rw [List.find?_map, Option.map_eq_some_iff]
  constructor
  · rintro ⟨k, hk, rfl⟩
    obtain ⟨hq, hleast⟩ := (find_finRange_eq_some _ k).mp hk
    refine ⟨hq, fun a ha => ?_⟩
    rw [add_sub_cancel_left]
    by_contra hlt
    have hnone := hleast (a - p) (not_le.mp hlt)
    rw [Function.comp_apply, hdist, ha] at hnone
    exact Bool.noConfusion hnone
  · rintro ⟨hq, hleast⟩
    refine ⟨st - p, (find_finRange_eq_some _ _).mpr ⟨?_, fun k hk => ?_⟩, hdist st⟩
    · rw [Function.comp_apply, hdist, hq]
    · refine Bool.eq_false_iff.mpr fun hqk => ?_
      have hle := hleast (p + k) hqk
      rw [add_sub_cancel_left] at hle
      exact absurd hk (not_lt.mpr hle)

theorem mem_rotation (p a : StationId) : a ∈ rotation p :=
  List.mem_map.mpr ⟨a - p, mem_allStations _, add_sub_cancel p a⟩

/-- The engine is idle while every slot is EMPTY (R117). -/
theorem State.arbiter_eq_none (s : State) : s.arbiter = none ↔ ∀ a, (s.ctx a).slot = .empty := by
  unfold State.arbiter
  rw [List.find?_eq_none]
  constructor
  · intro h a
    exact (CommandSlot.hasWork_eq_false _).mp (Bool.eq_false_iff.mpr (h a (mem_rotation _ a)))
  · intro h a _
    exact Bool.eq_false_iff.mp ((CommandSlot.hasWork_eq_false _).mpr (h a))

/-- The turn goes to the first slot with work from the pointer upward (R118). -/
theorem State.arbiter_eq_some (s : State) (st : StationId) :
    s.arbiter = some st ↔ (s.ctx st).slot ≠ .empty
      ∧ ∀ a, (s.ctx a).slot ≠ .empty → (st - s.turnPointer).val ≤ (a - s.turnPointer).val := by
  unfold State.arbiter
  rw [find_rotation_eq_some]
  simp only [CommandSlot.hasWork_eq_true, Fin.le_def]

/-! ### What leaves the turn pointer where it is -/

theorem State.nextTick_turnPointer (s : State) : s.nextTick.turnPointer = s.turnPointer := by
  unfold State.nextTick
  split
  · exact State.tickTable_turnPointer _
  · rfl

theorem busRead_turnPointer (st : StationId) (off : Offset) (s : State) :
    (busRead st off s).turnPointer = s.turnPointer := by
  unfold busRead readEffect
  rw [State.drive_turnPointer]
  split_ifs <;> rfl

theorem commandWrite_turnPointer (s : State) (st : StationId) (code : Byte) :
    (commandWrite s st code).turnPointer = s.turnPointer := by
  unfold commandWrite
  split_ifs <;> rfl

theorem busWrite_turnPointer (st : StationId) (off : Offset) (v : Byte) (s : State) :
    (busWrite st off v s).turnPointer = s.turnPointer := by
  unfold busWrite writeEffect
  rw [State.release_turnPointer]
  split_ifs
  case pos => rfl
  case pos => exact commandWrite_turnPointer s st v
  all_goals rfl

/-- An event that leaves the pointer leaves it under RESET also, where it does nothing (R183). -/
theorem unlessReset_turnPointer {s t : State} {f : State → State} (hf : (f s).turnPointer = s.turnPointer)
    (h : unlessReset s f = .next t) : t.turnPointer = s.turnPointer :=
  unlessReset_keeps (P := fun u => u.turnPointer = s.turnPointer) rfl hf h

/-- The rows that are neither a turn nor RESET: the ticks and the accesses. -/
theorem exec_turnPointer_of_noTurn {i : Instr} {s t : State} (hi : turnStation i = none) (hreset : ∀ b, i ≠ .reset b)
    (h : exec i s = .next t) : t.turnPointer = s.turnPointer := by
  cases i <;> cases hi
  case leaseTick => exact unlessReset_turnPointer s.nextTick_turnPointer h
  case leaseExpiry =>
    refine unlessReset_turnPointer ?_ h
    split
    · exact s.nextTick_turnPointer
    · rfl
  case waitTimeOut =>
    refine unlessReset_turnPointer ?_ h
    split
    · exact s.nextTick_turnPointer
    · rfl
  case resultRead st => exact unlessReset_turnPointer (busRead_turnPointer st _ s) h
  case statusRead st => exact unlessReset_turnPointer (busRead_turnPointer st _ s) h
  case noticeTake st => exact unlessReset_turnPointer (busRead_turnPointer st _ s) h
  case maskSet st v => exact unlessReset_turnPointer (busWrite_turnPointer st _ v s) h
  case maskClear st v => exact unlessReset_turnPointer (busWrite_turnPointer st _ v s) h
  case faultCauseWrite st v => exact unlessReset_turnPointer (busWrite_turnPointer st _ v s) h
  case unassignedOffset st off written =>
    refine unlessReset_turnPointer ?_ h
    cases written with
    | none => exact busRead_turnPointer st off s
    | some v => exact busWrite_turnPointer st off v s
  case windowWrite st off v => exact unlessReset_turnPointer (busWrite_turnPointer st off v s) h
  case reset high => exact absurd rfl (hreset high)

/-- Nothing but a served turn and RESET moves the pointer (R118). -/
theorem exec_turnPointer_of_notDue {i : Instr} {s t : State} (hdue : s.turnDue ≠ some i) (hreset : ∀ b, i ≠ .reset b)
    (h : exec i s = .next t) : t.turnPointer = s.turnPointer := by
  cases hi : turnStation i with
  | none => exact exec_turnPointer_of_noTurn hi hreset h
  | some st =>
    obtain ⟨turn, hturn, hexec⟩ := exec_servedWhenDue hi
    rw [hexec] at h
    exact unlessReset_turnPointer (congrArg State.turnPointer (hturn.idle s hdue)) h

/-- A served turn sets the pointer to the station after the one served (R118). -/
theorem exec_turnPointer_of_due {i : Instr} {s : State} {st : StationId} (hreset : s.resetPin = false)
    (hdue : s.turnDue = some i) (hi : turnStation i = some st) : ∃ t, exec i s = .next t ∧ t.turnPointer = st + 1 := by
  obtain ⟨turn, hturn, hexec⟩ := exec_servedWhenDue hi
  obtain ⟨u, hu⟩ := hturn.served s hdue
  exact ⟨u.endTurn st, by rw [hexec, unlessReset_low _ _ hreset, hu], State.endTurn_turnPointer u st⟩

/-- Settles O7: the search in the rotation finds the least distance from the pointer, and each row of the engine ends its
turn exactly where it is due. -/
theorem arbiterServesRotation : Obligations.ArbiterServesRotation :=
  ⟨State.arbiter_eq_none, State.arbiter_eq_some,
    fun _ _ _ hreset hdue hi => ⟨State.arbiter_of_turnDue hi hdue, exec_turnPointer_of_due hreset hdue hi⟩,
    fun _ _ _ hdue hreset h => exec_turnPointer_of_notDue hdue hreset h, rfl⟩

end Sys2Proof.Machine
end

section
/-!
SUPPORT. R120 and R182: the codes of the commands and of the results, and the checks before a command's own. With it, O10.
-/

namespace Sys2Proof.Machine

/-! ### The code tables -/

/-- The eighteen codes that name commands (R182). -/
def commandCodes : List (Byte × Command) :=
  [(0x01, .attach), (0x02, .detach), (0x10, .claim), (0x11, .release), (0x12, .upgrade), (0x13, .downgrade), (0x14, .renew),
    (0x15, .cancel), (0x16, .clearTaint), (0x20, .inspect), (0x21, .listFirst), (0x22, .listNext), (0x30, .define),
    (0x31, .amend), (0x32, .retire), (0x33, .configure), (0x34, .purge), (0x35, .stationInfo)]

/-- The value of every result code (R182). -/
def resultCodes : List (ResultCode × Byte) :=
  [(.none, 0x00), (.done, 0x01), (.granted, 0x02), (.queued, 0x03), (.unavailable, 0x04), (.noRecord, 0x05),
    (.endOfList, 0x06), (.badCommand, 0x40), (.badOperand, 0x41), (.badName, 0x42), (.badMode, 0x43), (.badState, 0x44),
    (.notOnline, 0x45), (.notPermitted, 0x46), (.denied, 0x47), (.notHolder, 0x48), (.noWait, 0x49), (.waitPending, 0x4A),
    (.deadlock, 0x4B), (.depthLimit, 0x4C), (.holdLimit, 0x4D), (.tableFull, 0x4E), (.standingFull, 0x4F), (.inUse, 0x50),
    (.noticeFull, 0x51), (.upgradePending, 0x52)]

/-- A code names a command where the table of the codes has the two in one row. -/
theorem ofCode_eq_some (b : Byte) (cmd : Command) : Command.ofCode b = some cmd ↔ (b, cmd) ∈ commandCodes := by
  constructor
  · intro h
    have hcode : b = BitVec.ofNat 8 b.toNat := by simp
    unfold Command.ofCode at h
    split at h
    case h_19 => exact absurd h.symm (Option.some_ne_none cmd)
    all_goals
      next hb =>
      obtain rfl := Option.some.inj h
      rw [hcode, hb]
      decide
  · have hrows : ∀ row ∈ commandCodes, Command.ofCode row.1 = some row.2 := by decide
    exact hrows (b, cmd)

/-- A result code has the value that its row of the table gives. -/
theorem resultByte_eq (code : ResultCode) (b : Byte) : code.byte = b ↔ (code, b) ∈ resultCodes := by
  constructor
  · rintro rfl
    cases code <;> decide
  · have hrows : ∀ row ∈ resultCodes, row.1.byte = row.2 := by decide
    exact hrows (code, b)

/-- Bit 6 of a result code marks the values from 0x40 on (R182). -/
theorem resultByte_bit6 (code : ResultCode) : code.byte.getLsbD 6 = true ↔ 64 ≤ code.byte.toNat := by
  cases code <;> decide

/-! ### The checks before a command's own -/

theorem entryRefusal_notOnline {s : State} {st : StationId} {cmd : Command} (hcmd : cmd ≠ .attach)
    (h : (s.ctx st).life ≠ .online) : s.entryRefusal st cmd = some .notOnline :=
  if_pos ⟨hcmd, by simp [State.online, h]⟩

theorem entryRefusal_notPermitted {s : State} {st : StationId} {cmd : Command} (hlife : (s.ctx st).life = .online)
    (hcmd : cmd.supervisorOnly = true) (hst : st ≠ 0) : s.entryRefusal st cmd = some .notPermitted := by
  have honline : ¬ (cmd ≠ .attach ∧ s.online st = false) := by simp [State.online, hlife]
  rw [State.entryRefusal, if_neg honline]
  exact if_pos ⟨hcmd, hst⟩

/-- The six supervisor commands (R92). -/
theorem supervisorOnly_of_mem {cmd : Command}
    (h : cmd ∈ [Command.define, .amend, .retire, .configure, .purge, .stationInfo]) : cmd.supervisorOnly = true := by
  have hall : ∀ cmd ∈ [Command.define, .amend, .retire, .configure, .purge, .stationInfo], cmd.supervisorOnly = true := by
    decide
  exact hall cmd h

/-- The turn of a captured code that names no command posts BAD_COMMAND and changes nothing else (R120 step 1). -/
theorem exec_badCommand {s : State} {st : StationId} {c : Captured} (hreset : s.resetPin = false)
    (hp : s.pendingTurn st = some c) (hc : c.command = none) :
    exec (.badCommand st) s = posted s st ⟨.badCommand, 0, 0, 0, 0⟩ := by
  show unlessReset s (badCommandTurn st) = _
  rw [unlessReset_low _ _ hreset, badCommandTurn_of_none hp hc]
  rfl

/-- The turn of a command that a check of R120 refuses posts the code of that check and changes nothing else. -/
theorem exec_turnRow_refused {s : State} {st : StationId} {c : Captured} {cmd : Command} {code : ResultCode}
    (hreset : s.resetPin = false) (hp : s.pendingTurn st = some c) (hc : c.command = some cmd)
    (hr : s.entryRefusal st cmd = some code) : exec (turnRow st c) s = posted s st ⟨code, 0, 0, 0, 0⟩ := by
  rcases exec_engineRow (turnStation_turnRow st c) with ⟨cmd', mine, own, hrow, hexec⟩ | hbad | ⟨kind, hwalk⟩
  · obtain ⟨hc', hm⟩ := hrow.of_turnRow
    obtain rfl := Option.some.inj (hc.symm.trans hc')
    rw [hexec, unlessReset_low _ _ hreset, commandTurn_refused hp hc hr mine hm]
    rfl
  · rw [(turnRow_eq_badCommand st c).mp hbad] at hc
    exact absurd hc.symm (Option.some_ne_none cmd)
  · exact absurd hwalk (turnRow_ne_row st st c kind)

/-- Settles O10: the two tables row by row, and each check of R120 as the one code its turn posts. -/
theorem entryChecksInOrder : Obligations.EntryChecksInOrder := by
  refine ⟨fun c cmd => ofCode_eq_some c.code cmd, resultByte_eq, resultByte_bit6, fun s st c hreset ha hslot => ?_⟩
  have hp := (s.pendingTurn_eq_some st c).mpr ⟨ha, hslot⟩
  refine ⟨exec_badCommand hreset hp, fun cmd hc hcmd hlife => ?notOnline, fun cmd hc hlife hcmd hst => ?notPermitted⟩
  case notOnline => exact exec_turnRow_refused hreset hp hc (entryRefusal_notOnline hcmd hlife)
  case notPermitted =>
    exact exec_turnRow_refused hreset hp hc (entryRefusal_notPermitted hlife (supervisorOnly_of_mem hcmd) hst)

end Sys2Proof.Machine
end

section
/-!
SUPPORT. R135: each wait keeps a place of its station's notice queue for its outcome. The places taken, by notices and by
waits, grow only where a wait is entered or a REVOKED or WARNING is admitted, and both of those find a place free. With it, O57.
-/

namespace Sys2Proof.Machine

/-! ### The law as a count of places -/

/-- The places of a station's notice queue that are taken: one by each notice in it, and one by each wait of the station, for
the outcome of that wait (R134, R135). -/
def State.placesTaken (s : State) (a : StationId) : Nat := (s.ctx a).notices.length + s.waiterEntries a

theorem State.waiterEntries_pos_iff (s : State) (a : StationId) : 0 < s.waiterEntries a ↔ s.Waiting a := by
  rw [State.waiterEntries_eq]
  constructor
  · intro hpos
    by_contra hwait
    have hzero : s.entriesAt a = fun _ => 0 := funext (State.entriesAt_eq_zero hwait)
    simp [hzero] at hpos
  · rw [State.waiting_iff_mem_line]
    rintro ⟨i, r, hr, hm⟩
    have hi : 0 < s.entriesAt a i := by
      rw [State.entriesAt_some hr]
      exact List.count_pos_iff.mpr hm
    exact hi.trans_le (le_sum_finRange (s.entriesAt a) i)

/-- The bound of R135 is the room that the admission rule leaves a REVOKED or WARNING (R134). -/
theorem State.noticesLaw_iff_room (s : State) :
    s.NoticesLaw ↔ s.OneWaitLaw ∧ ∀ a, (s.ctx a).notices.length ≤ s.noticeRoom a := by
  refine and_congr_right fun _ => forall_congr' fun a => ?_
  unfold State.noticeRoom Config.noticeCapacity
  by_cases hwait : s.Waiting a
  · simp only [(s.hasWait_iff a).mpr hwait, hwait, true_imp_iff, if_true]
    omega
  · simp [s.hasWait_iff a, hwait]

/-- No station has two waits, and no station's queue has more than its eight places taken. -/
theorem State.noticesLaw_iff_placesTaken (s : State) : s.NoticesLaw ↔ s.OneWaitLaw ∧ ∀ a, s.placesTaken a ≤ 8 := by
  refine and_congr_right fun hone => forall_congr' fun a => ?_
  have hwait := s.waiterEntries_pos_iff a
  have hle := hone a
  unfold State.placesTaken
  rw [← hwait]
  omega

/-! ### Events that take no place -/

/-- No station has more waits than it had, or more places of its notice queue taken. -/
structure State.Eased (s t : State) : Prop where
  entries : ∀ a, t.waiterEntries a ≤ s.waiterEntries a
  places : ∀ a, t.placesTaken a ≤ s.placesTaken a

theorem State.Eased.refl (s : State) : s.Eased s := ⟨fun _ => le_rfl, fun _ => le_rfl⟩

theorem State.Eased.trans {s t u : State} (h : s.Eased t) (k : t.Eased u) : s.Eased u :=
  ⟨fun a => (k.entries a).trans (h.entries a), fun a => (k.places a).trans (h.places a)⟩

theorem State.Eased.noticesLaw {s t : State} (h : s.Eased t) (hs : s.NoticesLaw) : t.NoticesLaw := by
  rw [State.noticesLaw_iff_placesTaken] at hs ⊢
  obtain ⟨hone, hplaces⟩ := hs
  exact ⟨fun a => (h.entries a).trans (hone a), fun a => (h.places a).trans (hplaces a)⟩

/-- A station is given no more notices than it has waits that end (R129). -/
theorem eased_of_waitsEnded {s t : State} (ended : StationId → Nat)
    (hentries : ∀ a, t.waiterEntries a + ended a ≤ s.waiterEntries a)
    (hnotices : ∀ a, (t.ctx a).notices.length ≤ (s.ctx a).notices.length + ended a) : s.Eased t where
  entries a := (Nat.le_add_right _ _).trans (hentries a)
  places a := by
    have he := hentries a
    have hn := hnotices a
    unfold State.placesTaken
    omega

theorem State.Relieved.waiterEntries_le {s t : State} (h : s.Relieved t) (a : StationId) :
    t.waiterEntries a ≤ s.waiterEntries a := by
  rw [State.waiterEntries_eq, State.waiterEntries_eq]
  exact List.sum_le_sum fun i _ => h.entriesAt_le a i

/-- Records are relieved, and no notice enters. -/
theorem eased_of_relieved {s t : State} (h : s.Relieved t)
    (hnotices : ∀ a, (t.ctx a).notices.length ≤ (s.ctx a).notices.length) : s.Eased t where
  entries a := h.waiterEntries_le a
  places a := Nat.add_le_add (hnotices a) (h.waiterEntries_le a)

/-- The table stays, and no notice enters. -/
theorem eased_of_slots {s t : State} (h : t.slots = s.slots)
    (hnotices : ∀ a, (t.ctx a).notices.length ≤ (s.ctx a).notices.length) : s.Eased t :=
  eased_of_relieved (State.relieved_of_slots h) hnotices

theorem eased_modifyCtx (s : State) (st : StationId) (f : Station → Station)
    (hf : (f (s.ctx st)).notices.length ≤ (s.ctx st).notices.length) : s.Eased (s.modifyCtx st f) := by
  refine eased_of_slots rfl fun a => ?_
  rw [State.ctx_modifyCtx]
  split
  · next e => exact e ▸ hf
  · exact le_rfl

theorem eased_complete (s : State) (st : StationId) (r : Result) : s.Eased (s.complete st r) :=
  eased_modifyCtx s st _ le_rfl

theorem eased_setLife (s : State) (st : StationId) (l : Life) : s.Eased (s.setLife st l) :=
  eased_modifyCtx s st _ le_rfl

theorem eased_endTurn (s : State) (st : StationId) : s.Eased (s.endTurn st) := eased_of_slots rfl fun _ => le_rfl

theorem eased_setRecord {s : State} {i : SlotId} {r q : Record} (hr : s.record i = some r) (h : r.Shrunk q) :
    s.Eased (s.setRecord i (some q)) := eased_of_relieved (relieved_setRecord hr h) fun _ => le_rfl

/-- A new holding in a record without waiters. -/
theorem eased_grantAtOnce (s : State) (i : SlotId) {r : Record} (hq : r.queue = []) (st : StationId) (m : Mode) :
    s.Eased (s.grantAtOnce i r st m) := by
  have hempty : ∀ q ∈ some (r.setHolding st (some ⟨m, 1, s.classLease r.attrs.leaseClass⟩)), q.queue = [] := by
    simpa using hq
  exact eased_of_relieved (relieved_setRecord_of_queue i hempty) fun _ => le_rfl

/-! ### Waits that end with a notice -/

/-- Entries that leave the queue of one slot leave the waits of their stations. -/
theorem State.waiterEntries_add_le {s t : State} {a : StationId} {i : SlotId} {n : Nat}
    (hi : t.entriesAt a i + n ≤ s.entriesAt a i) (hother : ∀ j, j ≠ i → t.record j = s.record j) :
    t.waiterEntries a + n ≤ s.waiterEntries a := by
  have hle (j : SlotId) : t.entriesAt a j + (if j = i then n else 0) ≤ s.entriesAt a j := by
    by_cases hj : j = i
    · rw [if_pos hj, hj]
      exact hi
    · rw [if_neg hj, Nat.add_zero, State.entriesAt, hother j hj]
      exact le_rfl
  have hsum := Finset.sum_le_sum fun j (_ : j ∈ Finset.univ) => hle j
  rw [Finset.sum_add_distrib, Finset.sum_ite_eq' Finset.univ i] at hsum
  simpa only [State.waiterEntries_eq, allSlots, ← List.ofFn_eq_map, List.sum_ofFn, Finset.mem_univ, if_true] using hsum

/-- A notice that comes to enter lengthens its station's queue by one at most (R131). -/
theorem State.length_notices_queueNotice_le (s : State) (a b : StationId) (n : Notice) :
    ((s.queueNotice a n).ctx b).notices.length ≤ (s.ctx b).notices.length + if a = b then 1 else 0 := by
  by_cases hb : b = a
  · subst hb
    rw [if_pos rfl]
    unfold State.queueNotice
    split_ifs
    · simp [State.pushNotice]
    · simp
    · exact Nat.le_add_right _ _
  · rw [State.ctx_queueNotice_ne s a b n hb]
    omega

theorem State.length_notices_queueNotices_le (s : State) (ns : List (StationId × Notice)) (b : StationId) :
    ((s.queueNotices ns).ctx b).notices.length ≤ (s.ctx b).notices.length + (ns.map Prod.fst).count b := by
  induction ns generalizing s with
  | nil => exact le_rfl
  | cons x xs ih =>
    have htail := ih (s.queueNotice x.1 x.2)
    have hhead := s.length_notices_queueNotice_le x.1 b x.2
    rw [List.map_cons, List.count_cons]
    simp only [beq_iff_eq]
    calc ((s.queueNotices (x :: xs)).ctx b).notices.length
      _ ≤ ((s.queueNotice x.1 x.2).ctx b).notices.length + (xs.map Prod.fst).count b := htail
      _ ≤ _ := by omega

/-- The waits that leave a record's line each end with one notice. -/
theorem eased_queueNotices {s u : State} {i : SlotId} {r q : Record} {ns : List (StationId × Notice)}
    (hslots : u.slots = (s.setRecord i (some q)).slots) (hctx : ∀ a, (u.ctx a).notices = (s.ctx a).notices)
    (hr : s.record i = some r) (hline : (ns.map Prod.fst ++ q.line).Perm r.line) : s.Eased (u.queueNotices ns) := by
  have hrecord (j : SlotId) : (u.queueNotices ns).record j = (s.setRecord i (some q)).record j := by
    rw [State.record, State.queueNotices_slots, hslots]
    rfl
  refine eased_of_waitsEnded (fun a => (ns.map Prod.fst).count a) (fun a => ?_) fun a => ?_
  · refine State.waiterEntries_add_le (i := i) ?_ fun j hj => by rw [hrecord, s.record_setRecord_ne i j _ hj]
    rw [State.entriesAt_some ((hrecord i).trans (s.record_setRecord_same i _)), State.entriesAt_some hr,
      ← hline.count_eq, List.count_append, Nat.add_comm]
  · rw [← hctx a]
    exact u.length_notices_queueNotices_le ns a

/-- The grant rule gives each entry it takes from a queue its GRANTED (R36, R37). -/
theorem eased_settle (s : State) (i : SlotId) : s.Eased (s.settle i) := by
  cases hr : s.record i with
  | none =>
    rw [s.settle_none i hr]
    exact .refl s
  | some r =>
    obtain ⟨batch, hbatch⟩ : ∃ batch, batch = (settleRun s r).2 := ⟨_, rfl⟩
    have hline : r.line = batch.map (·.station) ++ (settleRun s r).1.line := hbatch ▸ (settleRun_spec s r).line
    refine eased_of_waitsEnded (fun a => (batch.map (·.station)).count a) (fun a => ?_) fun a => ?_
    · refine State.waiterEntries_add_le (i := i) ?_ fun j hj => s.record_settle_ne i j hj
      have hleft : (s.settle i).entriesAt a i ≤ (settleRun s r).1.line.count a := by
        cases hr' : (s.settle i).record i with
        | none => simp [State.entriesAt_none hr']
        | some r' => rw [State.entriesAt_some hr', s.record_settle_mem i r r' hr hr']
      rw [State.entriesAt_some hr, hline, List.count_append]
      omega
    · rw [s.notices_settle i r hr a, ← hbatch]
      simp only [List.length_append, List.count, List.countP_map]
      split
      · rw [List.length_map, ← List.countP_eq_length_filter]
        exact le_of_eq rfl
      · exact Nat.le_add_right _ _

theorem eased_settle_setRecord {s : State} {i : SlotId} {r q : Record} (hr : s.record i = some r) (h : r.Shrunk q) :
    s.Eased ((s.setRecord i (some q)).settle i) := (eased_setRecord hr h).trans (eased_settle _ i)

theorem eased_dropHolding {s : State} {i : SlotId} {r q : Record} {h : Holding} {a : StationId}
    (hr : s.record i = some r) (hq : r.Shrunk q) (hh : q.holding a = some h) : s.Eased (s.dropHolding i q a) :=
  (eased_setRecord hr (hq.trans (shrunk_setHolding none hh))).trans (eased_of_slots rfl fun _ => le_rfl)

theorem eased_settle_dropHolding {s : State} {i : SlotId} {r q : Record} {h : Holding} {a : StationId}
    (hr : s.record i = some r) (hq : r.Shrunk q) (hh : q.holding a = some h) :
    s.Eased ((s.dropHolding i q a).settle i) := (eased_dropHolding hr hq hh).trans (eased_settle _ i)

theorem eased_endWait (s : State) (st : StationId) : s.Eased (s.endWait st) := by
  unfold State.endWait
  split
  · exact .refl s
  · next i r w hw =>
    obtain ⟨hr, -, -⟩ := s.waitOf_spec st i r w hw
    exact eased_settle_setRecord hr (shrunk_filter r _)

/-- The waiters that a new mask leaves out are each told so (R68). -/
theorem Record.withdrawn_perm_line (r : Record) (a : Attributes) :
    (((r.leftOut a).map r.permitNotice).map Prod.fst ++ (r.withdrawOutside a).line).Perm r.line := by
  rw [List.map_map]
  show (List.map (fun w : Waiter => w.station) _ ++ List.map _ _).Perm _
  rw [← List.map_append]
  exact (List.filter_append_perm _ r.queue).map _

theorem eased_storeAmended {s : State} {i : SlotId} {r q : Record} (hr : s.record i = some r) (h : r.Shrunk q) :
    s.Eased (s.storeAmended i q) := by
  have hstored : s.Eased (s.setRecord i (some q)) := eased_setRecord hr h
  refine (hstored.trans ?_).trans (eased_settle _ i)
  refine eased_queueNotices (q := q.withdrawOutside q.attrs) ?_ (fun _ => rfl) (s.record_setRecord_same i _)
    (q.withdrawn_perm_line q.attrs)
  simp

/-! ### The lease tick -/

/-- A tick tells each waiter whose entry it ends (R56, R67). -/
theorem Record.ticked_perm_line (r : Record) : (r.waiterNotices.map Prod.fst ++ r.ticked.line).Perm r.line := by
  have htold (l : List Waiter) :
      (l.filterMap fun w => (r.waiterEnd w).map fun n => (w.station, n)).map Prod.fst =
        (l.filter fun w => (r.waiterEnd w).isSome).map (·.station) := by
    induction l with
    | nil => rfl
    | cons w ws ih => cases hw : r.waiterEnd w <;> simp [hw, ih]
  have hstays (l : List Waiter) :
      (l.filterMap fun w => if (r.waiterEnd w).isSome then none
        else some { w with deadline := w.deadline.ticked }).map (·.station) =
        (l.filter fun w => !(r.waiterEnd w).isSome).map (·.station) := by
    induction l with
    | nil => rfl
    | cons w ws ih => cases hw : r.waiterEnd w <;> simp [hw, ih]
  rw [Record.waiterNotices, htold, Record.line, Record.ticked_queue, Record.tickedQueue, hstays, ← List.map_append]
  exact (List.filter_append_perm _ r.queue).map _

/-- A REVOKED or WARNING is admitted where it finds room, and a wait's place is not room (R134). -/
theorem queueNotice_noticesLaw {s : State} (hs : s.NoticesLaw) (a : StationId) {n : Notice}
    (hn : n.kind.isWaitOutcome = false) : (s.queueNotice a n).NoticesLaw := by
  unfold State.queueNotice
  split
  · split
    · next hadmit =>
      have hroom : (s.ctx a).notices.length < s.noticeRoom a := by simpa [hn] using hadmit
      rw [State.noticesLaw_iff_room] at hs ⊢
      obtain ⟨hone, hlen⟩ := hs
      refine ⟨hone.congr rfl, fun b => ?_⟩
      have hsame : (s.pushNotice a n).noticeRoom b = s.noticeRoom b := by
        unfold State.noticeRoom
        rw [State.hasWait_congr s (s.pushNotice a n) rfl]
      rw [hsame, State.pushNotice, State.ctx_modifyCtx]
      split
      · next e =>
        rw [e, List.length_append]
        exact hroom
      · exact hlen b
    · exact (eased_modifyCtx s a _ le_rfl).noticesLaw hs
  · exact hs

theorem queueNotices_noticesLaw {s : State} (hs : s.NoticesLaw) (ns : List (StationId × Notice))
    (hns : ∀ x ∈ ns, x.2.kind.isWaitOutcome = false) : (s.queueNotices ns).NoticesLaw := by
  induction ns generalizing s with
  | nil => exact hs
  | cons x xs ih =>
    obtain ⟨hx, hxs⟩ := List.forall_mem_cons.mp hns
    exact ih (queueNotice_noticesLaw hs x.1 hx) hxs

theorem Holding.tickNotice_not_outcome {h : Holding} {name : LockName} {warn : Byte} {n : Notice}
    (hn : h.tickNotice name warn = some n) : n.kind.isWaitOutcome = false := by
  unfold Holding.tickNotice at hn
  split at hn
  · exact absurd hn (by simp)
  · split_ifs at hn
    · obtain rfl := Option.some.inj hn
      rfl
    · obtain rfl := Option.some.inj hn
      rfl

/-- What a tick gives for holdings is REVOKED or WARNING (R79 to R81). -/
theorem Record.holdingNotices_not_outcome (r : Record) (warn : Byte) :
    ∀ x ∈ r.holdingNotices warn, x.2.kind.isWaitOutcome = false := by
  intro x hx
  obtain ⟨a, -, hx⟩ := List.mem_filterMap.mp hx
  obtain ⟨n, hn, rfl⟩ := Option.map_eq_some_iff.mp hx
  obtain ⟨h, -, hn⟩ := Option.bind_eq_some_iff.mp hn
  exact Holding.tickNotice_not_outcome hn

theorem tickChanged_noticesLaw {s : State} (hs : s.NoticesLaw) {i : SlotId} {r : Record} (hr : s.record i = some r) :
    (tickChanged s i r).NoticesLaw := by
  have hjudged := queueNotices_noticesLaw hs _
    (r.holdingNotices_not_outcome (s.leaseClass r.attrs.leaseClass).warn)
  refine State.Eased.noticesLaw (eased_queueNotices (i := i) ?_ (fun a => ?_) ?_ r.ticked_perm_line) hjudged
  · rw [State.lowerExpired_slots]
  · unfold State.ctx
    rw [State.lowerExpired_stations]
    rfl
  · rw [State.record, State.queueNotices_slots]
    exact hr

theorem tickSlot_noticesLaw (s : State) (i : SlotId) (hs : s.NoticesLaw) : (s.tickSlot i).NoticesLaw := by
  cases hr : s.record i with
  | none =>
    rw [s.tickSlot_none i hr]
    exact hs
  | some r =>
    have hchanged := tickChanged_noticesLaw hs hr
    rw [s.tickSlot_some i r hr]
    split
    · exact (eased_settle _ i).noticesLaw hchanged
    · exact hchanged

theorem tickTable_noticesLaw {s : State} (hs : s.NoticesLaw) : s.tickTable.NoticesLaw :=
  foldl_holds State.tickSlot State.NoticesLaw tickSlot_noticesLaw allSlots s hs

theorem tick_noticesLaw {s : State} (hs : s.NoticesLaw) : s.tick.NoticesLaw :=
  tickTable_noticesLaw ((eased_of_slots rfl fun _ => le_rfl : s.Eased (s.setPrescaler 0)).noticesLaw hs)

theorem nextTick_noticesLaw {s : State} (hs : s.NoticesLaw) : s.nextTick.NoticesLaw := by
  unfold State.nextTick
  split
  · exact tick_noticesLaw hs
  · exact hs

theorem clockPeriod_noticesLaw {s : State} (hs : s.NoticesLaw) : s.clockPeriod.NoticesLaw := by
  unfold State.clockPeriod
  split
  · split
    · exact tick_noticesLaw hs
    · exact (eased_of_slots rfl fun _ => le_rfl : s.Eased (s.setPrescaler _)).noticesLaw hs
  · exact hs

/-! ### The entry of a wait -/

/-- No wait is entered by a station that has one, or whose queue is full (R24, R47). -/
theorem length_lt_of_waitRefusal {s : State} {st : StationId} {blockers : List StationId}
    (hw : s.waitRefusal st blockers = none) : ¬ s.Waiting st ∧ (s.ctx st).notices.length < 8 := by
  unfold State.waitRefusal at hw
  split_ifs at hw with hwait hfull
  · exact ⟨fun h => hwait ((s.hasWait_iff st).mpr h), not_le.mp hfull⟩

/-- A station that may wait enters one line: the place of its outcome was free. -/
theorem State.NoticesLaw.enter {s : State} (hs : s.NoticesLaw) {i : SlotId} {r r' : Record} {st : StationId}
    {blockers : List StationId} (hr : s.record i = some r) (hw : s.waitRefusal st blockers = none)
    (hline : r'.line.Perm (st :: r.line)) : (s.setRecord i (some r')).NoticesLaw := by
  obtain ⟨hwait, hlen⟩ := length_lt_of_waitRefusal hw
  obtain ⟨hone, hbound⟩ := hs
  have hwaiting (a : StationId) (ha : (s.setRecord i (some r')).Waiting a) : a = st ∨ s.Waiting a := by
    rw [State.waiting_iff_mem_line] at ha ⊢
    obtain ⟨j, q, hq, hm⟩ := ha
    rw [State.record_setRecord] at hq
    split at hq
    · obtain rfl := Option.some.inj hq
      exact (List.mem_cons.mp (hline.subset hm)).imp_right fun hold => ⟨i, r, hr, hold⟩
    · exact .inr ⟨j, q, hq, hm⟩
  refine ⟨hone.enter hr hwait hline, fun a => ⟨(hbound a).1, fun ha => ?_⟩⟩
  rcases hwaiting a ha with rfl | hold
  · exact Nat.le_of_lt_succ hlen
  · exact (hbound a).2 hold

theorem enterClaimWait_noticesLaw {s : State} (hs : s.NoticesLaw) {i : SlotId} {r : Record} (w : Waiter)
    {blockers : List StationId} (hr : s.record i = some r) (hw : s.waitRefusal w.station blockers = none) :
    (s.enterClaimWait i r w).NoticesLaw := by
  have hline : ({ r with queue := r.queue ++ [w] } : Record).line = r.line ++ [w.station] := List.map_append
  exact hs.enter hr hw (hline ▸ List.perm_append_singleton _ _)

theorem enterUpgradeWait_noticesLaw {s : State} (hs : s.NoticesLaw) {i : SlotId} {r : Record} (w : Waiter)
    {blockers : List StationId} (hr : s.record i = some r) (hw : s.waitRefusal w.station blockers = none) :
    (s.enterUpgradeWait i r w).NoticesLaw := hs.enter hr hw (.refl _)

/-! ### The commands -/

section WaitingCommands

variable {s : State} (hs : s.NoticesLaw) (st : StationId) (c : Captured)
include hs

theorem claimNew_noticesLaw (m : Mode) (limit : Byte) {i : SlotId} {r : Record} (hr : s.record i = some r) :
    (claimNew s st m limit i r).1.NoticesLaw := by
  unfold claimNew
  split
  · exact hs
  · split
    · next hnow => exact (eased_grantAtOnce s i ((r.grantableNow_iff m).mp hnow).1 st m).noticesLaw hs
    · split
      · exact hs
      · split
        · exact hs
        · next hw => exact enterClaimWait_noticesLaw hs ⟨st, Request.ofMode m, Deadline.ofLimit limit⟩ hr hw

theorem claimAbsent_noticesLaw (n : LockName) (m : Mode) : (claimAbsent s st n m).1.NoticesLaw := by
  unfold claimAbsent
  split
  · exact hs
  · next i _ =>
    split_ifs
    · exact hs
    · exact hs
    · have hempty : (s.newTransient n).queue = [] := rfl
      exact (eased_grantAtOnce s i hempty st m).noticesLaw hs

theorem claimHeld_noticesLaw (m : Mode) {i : SlotId} {r : Record} {h : Holding} (hr : s.record i = some r)
    (hh : r.holding st = some h) : (claimHeld s st m i r h).1.NoticesLaw := by
  unfold claimHeld
  split_ifs
  · exact hs
  · exact hs
  · exact (eased_setRecord hr (shrunk_setHolding _ hh)).noticesLaw hs

theorem claimCommand_noticesLaw : (claimCommand st c s).1.NoticesLaw := by
  unfold claimCommand
  split
  · exact hs
  · next m _ =>
    split
    · exact hs
    · split
      · exact claimAbsent_noticesLaw hs st _ m
      · next i r hl =>
        have hr := State.record_of_lookup hl
        split_ifs
        · exact hs
        · exact hs
        · split
          · next h hh => exact claimHeld_noticesLaw hs st m hr hh
          · exact claimNew_noticesLaw hs st m c.s3 hr

theorem upgradeCommand_noticesLaw : (upgradeCommand st c s).1.NoticesLaw := by
  unfold upgradeCommand
  split
  · exact hs
  · split
    · exact hs
    · next i r h hu =>
      obtain ⟨hr, hh⟩ := State.record_of_holdingUnder hu
      split_ifs
      · exact hs
      · exact hs
      · exact (eased_setRecord hr (shrunk_setHolding _ hh)).noticesLaw hs
      · exact hs
      · split
        · exact hs
        · next hw => exact enterUpgradeWait_noticesLaw hs ⟨st, .upgrade, Deadline.ofLimit c.s3⟩ hr hw

end WaitingCommands

section Commands

variable (s : State) (st : StationId) (c : Captured)

theorem attachCommand_eased : s.Eased (attachCommand st c s).1 := by
  unfold attachCommand
  split
  all_goals dsimp only
  · exact eased_modifyCtx s st _ le_rfl
  · exact .refl s

theorem releaseCommand_eased : s.Eased (releaseCommand st c s).1 := by
  unfold releaseCommand
  split
  · exact .refl s
  · split
    · exact .refl s
    · next i r h hu =>
      obtain ⟨hr, hh⟩ := State.record_of_holdingUnder hu
      split_ifs
      · exact .refl s
      · exact eased_settle_dropHolding hr (.refl r) hh
      · exact eased_setRecord hr (shrunk_setHolding _ hh)

theorem downgradeCommand_eased : s.Eased (downgradeCommand st c s).1 := by
  unfold downgradeCommand
  split
  · exact .refl s
  · split
    · exact .refl s
    · next i r h hu =>
      obtain ⟨hr, hh⟩ := State.record_of_holdingUnder hu
      split_ifs
      · exact .refl s
      · exact .refl s
      · exact eased_settle_setRecord hr (shrunk_setHolding _ hh)

theorem cancelCommand_eased : s.Eased (cancelCommand st c s).1 := by
  unfold cancelCommand
  split
  · exact eased_endWait s st
  · exact .refl s

theorem renewCommand_eased : s.Eased (renewCommand st c s).1 := by
  unfold renewCommand
  split
  · exact .refl s
  · split
    · exact .refl s
    · next i r h hu =>
      obtain ⟨hr, hh⟩ := State.record_of_holdingUnder hu
      exact eased_setRecord hr (shrunk_setHolding _ hh)

theorem clearTaintCommand_eased : s.Eased (clearTaintCommand st c s).1 := by
  unfold clearTaintCommand
  split
  · exact .refl s
  · split
    · exact .refl s
    · next i r h hu =>
      obtain ⟨hr, -⟩ := State.record_of_holdingUnder hu
      split
      · exact .refl s
      · exact eased_setRecord hr (shrunk_of_eq rfl rfl)

theorem listFrom_eased (cur : Cursor) : s.Eased (listFrom st cur s).1 := by
  unfold listFrom State.setCursor
  split
  all_goals dsimp only
  · exact eased_modifyCtx s st _ le_rfl
  · exact eased_modifyCtx s st _ le_rfl

theorem listFirstCommand_eased : s.Eased (listFirstCommand st c s).1 := by
  unfold listFirstCommand
  split
  · exact .refl s
  · exact listFrom_eased s st _

theorem listNextCommand_eased : s.Eased (listNextCommand st c s).1 := by
  unfold listNextCommand
  split
  · exact .refl s
  · exact listFrom_eased s st _

theorem defineAbsent_eased (n : LockName) (a : Attributes) : s.Eased (defineAbsent n a s).1 := by
  unfold defineAbsent
  split
  · exact .refl s
  · split
    · exact .refl s
    · next i _ =>
      have hempty : ∀ q ∈ some (newStanding n a), q.queue = [] := by simp [newStanding]
      exact eased_of_relieved (relieved_setRecord_of_queue i hempty) fun _ => le_rfl

theorem defineCommand_eased : s.Eased (defineCommand st c s).1 := by
  unfold defineCommand
  split
  · exact .refl s
  · split
    · exact .refl s
    · split
      · exact defineAbsent_eased s _ _
      · next i r hl =>
        split_ifs
        · exact .refl s
        · exact .refl s
        · exact .refl s
        · have hr : (s.setStandingCount (s.standingCount + 1)).record i = some r := State.record_of_lookup hl
          have hcounted : s.Eased (s.setStandingCount (s.standingCount + 1)) := eased_of_slots rfl fun _ => le_rfl
          exact hcounted.trans (eased_storeAmended hr (shrunk_adopted _ r _))

theorem amendCommand_eased : s.Eased (amendCommand st c s).1 := by
  unfold amendCommand
  split
  · exact .refl s
  · split
    · exact .refl s
    · split
      · exact .refl s
      · next i r hl =>
        split_ifs
        · exact .refl s
        · exact .refl s
        · exact eased_storeAmended (State.record_of_lookup hl) (shrunk_amended s r _)

theorem retireCommand_eased : s.Eased (retireCommand st c s).1 := by
  unfold retireCommand
  split
  · exact .refl s
  · split
    · exact .refl s
    · next i r _ =>
      split
      · exact .refl s
      · have hfreed : s.Relieved (s.setRecord i none) := relieved_setRecord_of_queue i (by simp)
        exact eased_of_relieved hfreed fun _ => le_rfl

theorem refitSlot_eased (k : ClassId) (length : Byte) (i : SlotId) : s.Eased (s.refitSlot k length i) := by
  unfold State.refitSlot
  split
  · exact .refl s
  · next r hr =>
    split
    · exact eased_setRecord hr (shrunk_mapHoldings r _)
    · exact .refl s

theorem configureClassCommand_eased : s.Eased (configureClassCommand st c s).1 := by
  unfold configureClassCommand
  split
  · next k e _ _ =>
    dsimp only
    have hstored : s.Eased (s.setClass k e) := eased_of_slots rfl fun _ => le_rfl
    exact foldl_holds (State.refitSlot k e.length) s.Eased (fun u i hu => hu.trans (refitSlot_eased u k e.length i))
      allSlots _ hstored
  · exact .refl s

theorem configureTickRunCommand_eased : s.Eased (configureTickRunCommand st c s).1 := by
  unfold configureTickRunCommand State.setRunning
  split
  · exact .refl s
  · split
    · exact eased_of_slots rfl fun _ => le_rfl
    · exact eased_of_slots rfl fun _ => le_rfl

theorem configureDefaultsCommand_eased : s.Eased (configureDefaultsCommand st c s).1 := by
  unfold configureDefaultsCommand
  split
  · exact .refl s
  · exact eased_of_slots rfl fun _ => le_rfl

/-! ### The walks -/

theorem walkEffect_eased (w : Walk) : s.Eased (walkEffect w s).1 := by
  unfold walkEffect
  split
  · exact .refl s
  · next r hr =>
    split
    · exact .refl s
    · next h hh =>
      dsimp only
      split
      · have htainted : r.Shrunk { r with taint := some w.target } := shrunk_of_eq rfl rfl
        exact eased_settle_dropHolding hr htainted hh
      · exact eased_settle_dropHolding hr (.refl r) hh

theorem walkStep_eased (w : Walk) : s.Eased (walkStep st c w s) := by
  have heffect := walkEffect_eased s w
  unfold walkStep
  dsimp only
  split
  · exact (heffect.trans (eased_setLife _ _ _)).trans (eased_complete _ _ _)
  · exact heffect.trans (eased_modifyCtx _ _ _ le_rfl)

theorem laterTurn_eased (kind : WalkKind) : s.Eased (laterTurn kind st s) := by
  unfold laterTurn
  split
  · exact .refl s
  · split
    · exact (walkStep_eased s st _ _).trans (eased_endTurn _ st)
    · exact .refl s

theorem detachFirstTurn_eased : s.Eased (detachFirstTurn st c s) := by
  have hdetaching : s.Eased (s.setLife st .detaching) := eased_setLife s st _
  have hended := hdetaching.trans (eased_endWait _ st)
  exact (hended.trans (eased_modifyCtx _ st _ (Nat.zero_le _))).trans (walkStep_eased _ st c _)

theorem purgeCommand_eased : s.Eased (purgeCommand st c s) := by
  unfold purgeCommand
  split
  · exact eased_complete s st _
  · next target _ =>
    split
    · have hpurged : s.Eased (s.modifyCtx target Station.purged) := eased_modifyCtx s target _ (Nat.zero_le _)
      have hended := hpurged.trans (eased_endWait _ target)
      exact (hended.trans (eased_setLife _ target _)).trans (walkStep_eased _ st c _)
    · exact eased_complete s st _

theorem badCommandTurn_eased : s.Eased (badCommandTurn st s) := by
  unfold badCommandTurn
  split
  · exact .refl s
  · split
    · exact (eased_complete s st _).trans (eased_endTurn _ st)
    · exact .refl s

/-! ### The accesses -/

/-- A take leaves one notice less, or none (R138). -/
theorem Station.length_notices_take_le (x : Station) : x.take.notices.length ≤ x.notices.length := by
  unfold Station.take
  split
  · exact le_rfl
  · next hx => simp [hx]

theorem busRead_eased (off : Offset) : s.Eased (busRead st off s) := by
  have heffect : s.Eased (readEffect s st off) := by
    unfold readEffect
    split_ifs
    · exact eased_modifyCtx s st _ le_rfl
    · exact eased_modifyCtx s st _ le_rfl
    · exact eased_modifyCtx s st _ (Station.length_notices_take_le _)
    · exact eased_modifyCtx s st _ le_rfl
    · exact .refl s
  exact heffect.trans (eased_of_slots rfl fun _ => le_rfl)

theorem commandWrite_eased (code : Byte) : s.Eased (commandWrite s st code) := by
  unfold commandWrite
  split_ifs <;> exact eased_modifyCtx s st _ le_rfl

theorem busWrite_eased (off : Offset) (v : Byte) : s.Eased (busWrite st off v s) := by
  have heffect : s.Eased (writeEffect s st off v) := by
    unfold writeEffect
    split_ifs
    · exact eased_modifyCtx s st _ le_rfl
    · exact commandWrite_eased s st v
    all_goals exact eased_modifyCtx s st _ le_rfl
  exact heffect.trans (eased_of_slots rfl fun _ => le_rfl)

end Commands

/-! ### Every step -/

/-- At reset no notice is queued and no station waits (R1, R111). -/
theorem noticesLaw_reset : State.reset.NoticesLaw := by
  refine State.reset.noticesLaw_iff_room.mpr ⟨noCycleLaw_reset.1, fun a => ?_⟩
  have hnone : (State.reset.ctx a).notices = [] := by simp [State.ctx, State.reset, Station.reset]
  rw [hnone]
  exact Nat.zero_le _

theorem commandTurn_noticesLaw {s : State} (hs : s.NoticesLaw) {st : StationId} {cmd : Command}
    {mine : Captured → Bool} {own : Captured → State → State} (hown : ∀ c, (own c s).NoticesLaw) :
    (commandTurn st cmd mine own s).NoticesLaw := by
  rcases commandTurn_cases st cmd mine own s with e | ⟨c, code, -, -, -, -, e⟩ | ⟨c, -, -, -, -, e⟩
  · rw [e]
    exact hs
  · rw [e]
    exact ((eased_complete s st _).trans (eased_endTurn _ st)).noticesLaw hs
  · rw [e]
    exact (eased_endTurn _ st).noticesLaw (hown c)

theorem ordinaryTurn_noticesLaw {s : State} (hs : s.NoticesLaw) {st : StationId} {cmd : Command}
    {mine : Captured → Bool} {own : Captured → State → State × Result} (hown : ∀ c, (own c s).1.NoticesLaw) :
    (ordinaryTurn st cmd mine own s).NoticesLaw :=
  commandTurn_noticesLaw hs fun c => (eased_complete _ st _).noticesLaw (hown c)

/-- The row of an ordinary command. -/
theorem ordinaryRow_noticesLaw {s t : State} (hs : s.NoticesLaw) {st : StationId} {cmd : Command}
    {mine : Captured → Bool} {own : Captured → State → State × Result} (hown : ∀ c, (own c s).1.NoticesLaw)
    (h : unlessReset s (ordinaryTurn st cmd mine own) = .next t) : t.NoticesLaw :=
  unlessReset_keeps hs (ordinaryTurn_noticesLaw hs hown) h

/-- The row of an ordinary command whose work takes no place. -/
theorem ordinaryRow_noticesLaw_of_eased {s t : State} (hs : s.NoticesLaw) {st : StationId} {cmd : Command}
    {mine : Captured → Bool} {own : Captured → State → State × Result} (hown : ∀ c, s.Eased (own c s).1)
    (h : unlessReset s (ordinaryTurn st cmd mine own) = .next t) : t.NoticesLaw :=
  ordinaryRow_noticesLaw hs (fun c => (hown c).noticesLaw hs) h

/-- A row that takes no place. -/
theorem unlessReset_noticesLaw {s t : State} {f : State → State} (hs : s.NoticesLaw) (hf : s.Eased (f s))
    (h : unlessReset s f = .next t) : t.NoticesLaw := unlessReset_keeps hs (hf.noticesLaw hs) h

/-- Every command keeps R135. -/
theorem exec_noticesLaw {s t : State} {i : Instr} (hs : s.NoticesLaw) (h : exec i s = .next t) : t.NoticesLaw := by
  cases i with
  | attach st => exact ordinaryRow_noticesLaw_of_eased hs (attachCommand_eased s st) h
  | detach st =>
    have hown (c : Captured) := (detachFirstTurn_eased s st c).noticesLaw hs
    exact unlessReset_keeps hs (commandTurn_noticesLaw hs hown) h
  | detachWalkStep st => exact unlessReset_noticesLaw hs (laterTurn_eased s st .detach) h
  | claim st => exact ordinaryRow_noticesLaw hs (claimCommand_noticesLaw hs st) h
  | release st => exact ordinaryRow_noticesLaw_of_eased hs (releaseCommand_eased s st) h
  | downgrade st => exact ordinaryRow_noticesLaw_of_eased hs (downgradeCommand_eased s st) h
  | upgrade st => exact ordinaryRow_noticesLaw hs (upgradeCommand_noticesLaw hs st) h
  | renew st => exact ordinaryRow_noticesLaw_of_eased hs (renewCommand_eased s st) h
  | cancel st => exact ordinaryRow_noticesLaw_of_eased hs (cancelCommand_eased s st) h
  | clearTaint st => exact ordinaryRow_noticesLaw_of_eased hs (clearTaintCommand_eased s st) h
  | inspect st => exact ordinaryRow_noticesLaw hs (fun c => (inspectCommand_fst st c s).symm ▸ hs) h
  | listFirst st => exact ordinaryRow_noticesLaw_of_eased hs (listFirstCommand_eased s st) h
  | listNext st => exact ordinaryRow_noticesLaw_of_eased hs (listNextCommand_eased s st) h
  | stationInfo st => exact ordinaryRow_noticesLaw hs (fun c => (stationInfoCommand_fst st c s).symm ▸ hs) h
  | define st => exact ordinaryRow_noticesLaw_of_eased hs (defineCommand_eased s st) h
  | amend st => exact ordinaryRow_noticesLaw_of_eased hs (amendCommand_eased s st) h
  | retire st => exact ordinaryRow_noticesLaw_of_eased hs (retireCommand_eased s st) h
  | configureClass st => exact ordinaryRow_noticesLaw_of_eased hs (configureClassCommand_eased s st) h
  | configurePrescaler st => exact ordinaryRow_noticesLaw_of_eased hs (fun _ => eased_of_slots rfl fun _ => le_rfl) h
  | configureTickRun st => exact ordinaryRow_noticesLaw_of_eased hs (configureTickRunCommand_eased s st) h
  | configureDefaults st => exact ordinaryRow_noticesLaw_of_eased hs (configureDefaultsCommand_eased s st) h
  | purge st =>
    have hown (c : Captured) := (purgeCommand_eased s st c).noticesLaw hs
    exact unlessReset_keeps hs (commandTurn_noticesLaw hs hown) h
  | purgeWalkStep st => exact unlessReset_noticesLaw hs (laterTurn_eased s st .purge) h
  | badCommand st => exact unlessReset_noticesLaw hs (badCommandTurn_eased s st) h
  | leaseTick => exact unlessReset_keeps hs (nextTick_noticesLaw hs) h
  | leaseExpiry st i =>
    refine unlessReset_keeps hs ?_ h
    split
    · exact nextTick_noticesLaw hs
    · exact hs
  | waitTimeOut st =>
    refine unlessReset_keeps hs ?_ h
    split
    · exact nextTick_noticesLaw hs
    · exact hs
  | resultRead st => exact unlessReset_noticesLaw hs (busRead_eased s st _) h
  | statusRead st => exact unlessReset_noticesLaw hs (busRead_eased s st _) h
  | noticeTake st => exact unlessReset_noticesLaw hs (busRead_eased s st _) h
  | maskSet st v => exact unlessReset_noticesLaw hs (busWrite_eased s st _ v) h
  | maskClear st v => exact unlessReset_noticesLaw hs (busWrite_eased s st _ v) h
  | faultCauseWrite st v => exact unlessReset_noticesLaw hs (busWrite_eased s st _ v) h
  | unassignedOffset st off written =>
    refine unlessReset_noticesLaw hs ?_ h
    cases written with
    | none => exact busRead_eased s st off
    | some v => exact busWrite_eased s st off v
  | windowWrite st off v => exact unlessReset_noticesLaw hs (busWrite_eased s st off v) h
  | reset high =>
    obtain rfl := Host.Outcome.next.inj h
    split
    · exact State.Eased.noticesLaw (s := State.reset) (eased_of_slots rfl fun _ => le_rfl) noticesLaw_reset
    · exact State.Eased.noticesLaw (s := s) (eased_of_slots rfl fun _ => le_rfl) hs

/-- Settles O57: no step but the entry of a wait and the admission of a REVOKED or WARNING takes a place of a notice queue, and
those two find one free. -/
theorem noticeQueuesKeptWithin : Obligations.NoticeQueuesKeptWithin := by
  intro s t hs h
  unfold step at h
  split at h
  · exact unlessReset_keeps hs (clockPeriod_noticesLaw hs) h
  · next rest _ =>
    have htaken : s.Eased { s with pending := rest } := eased_of_slots rfl fun _ => le_rfl
    exact exec_noticesLaw (htaken.noticesLaw hs) h

end Sys2Proof.Machine
end

section
/-!
SUPPORT. The bits of PENDING KINDS and of STATUS that the notice line shows in (R142, R143, R178). With it, O49.
-/

namespace Sys2Proof.Machine

/-- Bit 0 of PENDING KINDS is RESULT READY (R142). -/
theorem pendingKindsOf_bit_zero (notices : List Notice) (ready : Bool) :
    (pendingKindsOf notices ready).getLsbD 0 = ready := by
  simp only [pendingKindsOf, BitVec.getLsbD_append]
  simp

/-- The bit of a kind in PENDING KINDS tells whether a notice of the kind is queued (R142). -/
theorem pendingKindsOf_bit_code (notices : List Notice) (ready : Bool) (k : NoticeKind) :
    (pendingKindsOf notices ready).getLsbD k.code = notices.any (·.kind == k) := by
  simp only [pendingKindsOf, BitVec.getLsbD_append]
  cases k <;> simp [NoticeKind.code]

/-- The six positions of the mask are that of RESULT READY and those of the kinds (R141, R181). -/
theorem exists_position_iff (p : Nat → Prop) : (∃ i, i < 6 ∧ p i) ↔ (∃ k : NoticeKind, p k.code) ∨ p 0 := by
  constructor
  · rintro ⟨i, hi, hp⟩
    interval_cases i
    · exact .inr hp
    · exact .inl ⟨.granted, hp⟩
    · exact .inl ⟨.timedOut, hp⟩
    · exact .inl ⟨.withdrawn, hp⟩
    · exact .inl ⟨.revoked, hp⟩
    · exact .inl ⟨.warning, hp⟩
  · rintro (⟨k, hp⟩ | hp)
    · exact ⟨k.code, by cases k <;> decide, hp⟩
    · exact ⟨0, by decide, hp⟩

/-- Two sets of six members, read as bytes, have a member in common. -/
theorem and_setWidth_ne_zero_iff (x y : BitVec 6) :
    x.setWidth 8 &&& y.setWidth 8 ≠ 0 ↔ ∃ i, i < 6 ∧ x.getLsbD i = true ∧ y.getLsbD i = true := by
  constructor
  · intro h
    by_contra hnone
    refine h (BitVec.eq_of_getLsbD_eq fun i _ => ?_)
    by_contra hbit
    obtain ⟨-, hx, -, hy⟩ : i < 8 ∧ x.getLsbD i = true ∧ i < 8 ∧ y.getLsbD i = true := by simpa using hbit
    exact hnone ⟨i, BitVec.lt_of_getLsbD hx, hx, hy⟩
  · rintro ⟨i, hi, hx, hy⟩ h
    have hbit := congrArg (·.getLsbD i) h
    have hi8 : i < 8 := by omega
    simp [hx, hy, hi8] at hbit

/-- The line is low exactly while a queued notice's kind, or RESULT READY, is enabled (R143). -/
theorem State.lineLow_iff (s : State) (st : StationId) :
    s.lineLow st = true ↔ (∃ n ∈ (s.ctx st).notices, (s.ctx st).mask.getLsbD n.kind.code = true)
      ∨ ((s.ctx st).resultReady = true ∧ (s.ctx st).mask.getLsbD 0 = true) := by
  simp only [State.lineLow, maskEnables, maskEnablesReady, Bool.or_eq_true, List.any_eq_true, Bool.and_eq_true]

/-- The line is low exactly while the mask and PENDING KINDS have a position in common (R142). -/
theorem State.lineLow_iff_pendingKinds (s : State) (st : StationId) :
    s.lineLow st = true ↔ (s.ctx st).mask.setWidth 8 &&& (s.pendingKinds st).setWidth 8 ≠ (0 : Byte) := by
  rw [State.lineLow_iff, and_setWidth_ne_zero_iff, exists_position_iff]
  simp only [State.pendingKinds, pendingKindsOf_bit_zero, pendingKindsOf_bit_code, List.any_eq_true, beq_iff_eq]
  refine or_congr ?_ and_comm
  constructor
  · rintro ⟨n, hn, hmask⟩
    exact ⟨n.kind, hmask, n, hn, rfl⟩
  · rintro ⟨k, hmask, n, hn, rfl⟩
    exact ⟨n, hn, hmask⟩

/-- Bit 4 of STATUS is the LINE bit (R178). -/
theorem statusByte_bit_line (fault lost wait line ready busy : Bool) (life : Life) :
    (statusByte fault lost wait line ready busy life).getLsbD 4 = line := by
  simp only [statusByte, BitVec.getLsbD_append]
  simp

/-- Settles O49: the line read off the queue, off the two window bytes and off STATUS is one. -/
theorem noticeLineIsLowWhenEnabled : Obligations.NoticeLineIsLowWhenEnabled := by
  intro s st
  refine ⟨s.lineLow_iff st, s.lineLow_iff_pendingKinds st, statusByte_bit_line _ _ _ _ _ _ _, ?_⟩
  simp [State.lineLow, State.ctx, State.reset, Station.reset]

end Sys2Proof.Machine
end

section
/-!
SUPPORT. What an event can do, said once: the work of an ordinary command as one of a short list of changes, each with the
checks that let it through, and an event as the completion of such work, a turn of a walk, a tick, an access or a reset. The
laws that every step keeps, and what turns and ticks leave unchanged, are read off these two lists.
-/

namespace Sys2Proof.Machine

/-! ### The work of an ordinary command -/

/-- What the work of an ordinary command's row makes of the part, with the checks that let the command through. -/
inductive Work : Instr → State → State → Prop
  /-- A refusal, a report, or a command that finds nothing to do. -/
  | nothing (row : Instr) (s : State) : Work row s s
  /-- ATTACH (R96). -/
  | attached {s : State} {st : StationId} : (s.ctx st).life = .offline →
      Work (.attach st) s (s.modifyCtx st fun x => { x with life := .online, noticeLost := false })
  /-- LIST FIRST or LIST NEXT (R153, R154). -/
  | listed {s : State} {row : Instr} {st : StationId} (cur : Cursor) : turnStation row = some st →
      Work row s (s.setCursor st cur)
  /-- A claim of an absent name (R26). -/
  | created {s : State} {st : StationId} {i : SlotId} {n : LockName} (m : Mode) : s.record i = none → n ≠ 0 →
      s.Absent n → s.commitment st < 16 → Work (.claim st) s (s.grantAtOnce i (s.newTransient n) st m)
  /-- A claim granted at once (R32). -/
  | granted {s : State} {st : StationId} {i : SlotId} {r : Record} {m : Mode} : s.record i = some r →
      r.holding st = none → s.commitment st < 16 → r.GrantableNow m → Work (.claim st) s (s.grantAtOnce i r st m)
  /-- A claim that waits (R51). -/
  | queued {s : State} {st : StationId} {i : SlotId} {r : Record} {m : Mode} {limit : Byte} : s.record i = some r →
      r.holding st = none → s.commitment st < 16 → ¬ r.GrantableNow m → limit ≠ 0 →
      s.waitRefusal st r.claimBlockers = none →
      Work (.claim st) s (s.enterClaimWait i r ⟨st, Request.ofMode m, Deadline.ofLimit limit⟩)
  /-- A holding re-entered, lowered by a release, or renewed: its mode stays (R29, R42, R78). -/
  | reheld {s : State} {row : Instr} {st : StationId} {i : SlotId} {r : Record} {h g : Holding} :
      turnStation row = some st → s.record i = some r → r.holding st = some h → g.mode = h.mode →
      (1 ≤ h.depth → h.depth ≤ 15 → 1 ≤ g.depth ∧ g.depth ≤ 15) →
      g.lease = h.lease ∨ g.lease = s.classLease r.attrs.leaseClass →
      Work row s (s.setRecord i (some (r.setHolding st (some g))))
  /-- An upgrade that takes effect at once (R48). -/
  | upgraded {s : State} {st : StationId} {i : SlotId} {r : Record} {h : Holding} : s.record i = some r →
      r.holding st = some h → r.OnlyHolder st →
      Work (.upgrade st) s
        (s.setRecord i (some (r.setHolding st (some ⟨.exclusive, h.depth, s.classLease r.attrs.leaseClass⟩))))
  /-- An upgrade that waits (R53). -/
  | upgradeQueued {s : State} {st : StationId} {i : SlotId} {r : Record} {h : Holding} {limit : Byte} :
      s.record i = some r → r.holding st = some h → h.mode = .shared → ¬ r.OnlyHolder st → limit ≠ 0 →
      s.waitRefusal st (r.upgradeBlockers st) = none →
      Work (.upgrade st) s (s.enterUpgradeWait i r ⟨st, .upgrade, Deadline.ofLimit limit⟩)
  /-- A release of the last level of a holding (R42). -/
  | released {s : State} {st : StationId} {i : SlotId} {r : Record} {h : Holding} : s.record i = some r →
      r.holding st = some h → ¬ r.UpgradeWaiter st → Work (.release st) s ((s.dropHolding i r st).settle i)
  /-- DOWNGRADE (R46). -/
  | downgraded {s : State} {st : StationId} {i : SlotId} {r : Record} {h : Holding} : s.record i = some r →
      r.holding st = some h → h.mode = .exclusive →
      Work (.downgrade st) s ((s.setRecord i (some (r.setHolding st (some { h with mode := .shared })))).settle i)
  /-- CLEAR TAINT (R88). -/
  | untainted {s : State} {st : StationId} {i : SlotId} {r : Record} {h : Holding} : s.record i = some r →
      r.holding st = some h → Work (.clearTaint st) s (s.setRecord i (some { r with taint := none }))
  /-- CANCEL (R58). -/
  | cancelled (s : State) (st : StationId) : Work (.cancel st) s (s.endWait st)
  /-- DEFINE of an absent name (R166). -/
  | defined {s : State} {st : StationId} {i : SlotId} {n : LockName} (a : Attributes) : s.record i = none → n ≠ 0 →
      s.Absent n → s.standingCount < 48 →
      Work (.define st) s ((s.setRecord i (some (newStanding n a))).setStandingCount (s.standingCount + 1))
  /-- DEFINE of a transient record (R167). -/
  | adopted {s : State} {st : StationId} {i : SlotId} {r : Record} (a : Attributes) : s.record i = some r →
      r.kind = .transient → s.standingCount < 48 →
      Work (.define st) s ((s.setStandingCount (s.standingCount + 1)).storeAmended i (s.adopted r a))
  /-- AMEND (R169). -/
  | amended {s : State} {st : StationId} {i : SlotId} {r : Record} (a : Attributes) : s.record i = some r →
      r.kind = .standing → Work (.amend st) s (s.storeAmended i (s.amended r a))
  /-- RETIRE (R171). -/
  | retired {s : State} {st : StationId} {i : SlotId} {r : Record} : s.record i = some r → r.NoHolder → r.queue = [] →
      Work (.retire st) s (s.removeRecord i r)
  /-- CONFIGURE of a lease class (R162). -/
  | classSet {s : State} {st : StationId} (k : ClassId) {e : LeaseClass} :
      e.warn.toNat < e.length.toNat ∨ (e.length = 0 ∧ e.warn = 0) →
      Work (.configureClass st) s (allSlots.foldl (State.refitSlot k e.length) (s.setClass k e))
  /-- CONFIGURE of P (R163). -/
  | prescalerSet (s : State) (st : StationId) (p : Byte) :
      Work (.configurePrescaler st) s { s with lease := { s.lease with p := p, count := 0 } }
  /-- CONFIGURE of the tick-run flag (R72). -/
  | runSet (s : State) (st : StationId) (run : Bool) : Work (.configureTickRun st) s (s.setRunning run)
  /-- CONFIGURE of the transient defaults (R164). -/
  | defaultsSet (s : State) (st : StationId) (a : Attributes) : Work (.configureDefaults st) s { s with defaults := a }

/-- The answer of an ordinary command: its work, with a result that is not NONE (R123). -/
def Answers (row : Instr) (s : State) (x : State × Result) : Prop := Work row s x.1 ∧ x.2.code ≠ .none

theorem Answers.bare {row : Instr} {s : State} {code : ResultCode} (h : code ≠ .none) : Answers row s (s, .bare code) :=
  ⟨.nothing row s, h⟩

section Commands

variable (st : StationId) (c : Captured) (s : State)

theorem attachCommand_answers : Answers (.attach st) s (attachCommand st c s) := by
  unfold attachCommand
  split
  · next h => exact ⟨.attached h, by simp⟩
  · exact .bare (by simp)

theorem claimAbsent_answers {n : LockName} (m : Mode) (hz : n ≠ 0) (hl : s.lookup n = none) :
    Answers (.claim st) s (claimAbsent s st n m) := by
  have habsent := ((s.lookup_eq_none n).mp hl).resolve_left hz
  unfold claimAbsent
  split
  · exact .bare (by simp)
  · next i hi =>
    split
    · exact .bare (by simp)
    · next hc =>
      split
      · exact .bare (by simp)
      · exact ⟨.created m ((s.freeSlot_eq_some i).mp hi).1 hz habsent (not_le.mp hc), by simp [grantedResult]⟩

theorem claimHeld_answers (m : Mode) {i : SlotId} {r : Record} {h : Holding} (hr : s.record i = some r)
    (hh : r.holding st = some h) : Answers (.claim st) s (claimHeld s st m i r h) := by
  unfold claimHeld Config.depthLimit
  split
  · exact .bare (by simp)
  · split
    · exact .bare (by simp)
    · refine ⟨.reheld rfl hr hh rfl ?_ (.inr rfl), by simp [grantedResult]⟩
      intro _ _
      constructor
      · simp
      · dsimp only
        omega

/-- A refused wait posts a refusal. -/
theorem waitRefusal_code {blockers : List StationId} {r : Result} (h : s.waitRefusal st blockers = some r) :
    r.code ≠ .none := by
  unfold State.waitRefusal at h
  split_ifs at h
  · obtain rfl := Option.some.inj h
    simp [Result.bare]
  · obtain rfl := Option.some.inj h
    simp [Result.bare]
  · obtain ⟨b, -, rfl⟩ := Option.map_eq_some_iff.mp h
    simp

theorem claimNew_answers (m : Mode) (limit : Byte) {i : SlotId} {r : Record} (hr : s.record i = some r)
    (hh : r.holding st = none) : Answers (.claim st) s (claimNew s st m limit i r) := by
  unfold claimNew
  split
  · exact .bare (by simp)
  · next hc =>
    have hcommit := not_le.mp hc
    split
    · next hnow => exact ⟨.granted hr hh hcommit ((r.grantableNow_iff m).mp hnow), by simp [grantedResult]⟩
    · next hnow =>
      split
      · exact .bare (by simp)
      · next hlimit =>
        split
        · next hw => exact ⟨.nothing _ s, waitRefusal_code st s hw⟩
        · next hw => exact ⟨.queued hr hh hcommit (mt (r.grantableNow_iff m).mpr hnow) hlimit hw, by simp⟩

theorem claimCommand_answers : Answers (.claim st) s (claimCommand st c s) := by
  unfold claimCommand
  split
  · exact .bare (by simp)
  · next m _ =>
    split
    · exact .bare (by simp)
    · next hz =>
      split
      · next hl => exact claimAbsent_answers st s m hz hl
      · next i r hl =>
        have hr := State.record_of_lookup hl
        split
        · exact .bare (by simp)
        · split
          · exact .bare (by simp)
          · split
            · next h hh => exact claimHeld_answers st s m hr hh
            · next hh => exact claimNew_answers st s m c.s3 hr hh

theorem releaseCommand_answers : Answers (.release st) s (releaseCommand st c s) := by
  unfold releaseCommand
  split
  · exact .bare (by simp)
  · split
    · exact .bare (by simp)
    · next i r h hu =>
      obtain ⟨hr, hh⟩ := State.record_of_holdingUnder hu
      split
      · exact .bare (by simp)
      · next hpending =>
        split
        · next hd =>
          exact ⟨.released hr hh fun hw => hpending ⟨hd, (r.upgradeWaits_iff st).mpr hw⟩, by simp [Result.bare]⟩
        · next hd =>
          refine ⟨.reheld rfl hr hh rfl ?_ (.inl rfl), by simp⟩
          intro _ _
          constructor
          · dsimp only
            omega
          · dsimp only
            omega

theorem downgradeCommand_answers : Answers (.downgrade st) s (downgradeCommand st c s) := by
  unfold downgradeCommand
  split
  · exact .bare (by simp)
  · split
    · exact .bare (by simp)
    · next i r h hu =>
      obtain ⟨hr, hh⟩ := State.record_of_holdingUnder hu
      split
      · exact .bare (by simp)
      · next hm =>
        have hexclusive : h.mode = .exclusive := by cases hmode : h.mode <;> simp_all
        split
        · exact .bare (by simp)
        · exact ⟨.downgraded hr hh hexclusive, by simp⟩

theorem upgradeCommand_answers : Answers (.upgrade st) s (upgradeCommand st c s) := by
  unfold upgradeCommand
  split
  · exact .bare (by simp)
  · split
    · exact .bare (by simp)
    · next i r h hu =>
      obtain ⟨hr, hh⟩ := State.record_of_holdingUnder hu
      split
      · exact .bare (by simp)
      · split
        · exact .bare (by simp)
        · next hm =>
          have hshared : h.mode = .shared := by cases hmode : h.mode <;> simp_all
          split
          · next hsole => exact ⟨.upgraded hr hh ((r.soleHolder_iff st).mp hsole), by simp [grantedResult]⟩
          · next hsole =>
            split
            · exact .bare (by simp)
            · next hlimit =>
              split
              · next hw => exact ⟨.nothing _ s, waitRefusal_code st s hw⟩
              · next hw =>
                exact ⟨.upgradeQueued hr hh hshared (mt (r.soleHolder_iff st).mpr hsole) hlimit hw, by simp⟩

theorem renewCommand_answers : Answers (.renew st) s (renewCommand st c s) := by
  unfold renewCommand
  split
  · exact .bare (by simp)
  · split
    · exact .bare (by simp)
    · next i r h hu =>
      obtain ⟨hr, hh⟩ := State.record_of_holdingUnder hu
      exact ⟨.reheld rfl hr hh rfl (fun h1 h2 => ⟨h1, h2⟩) (.inr rfl), by simp⟩

theorem cancelCommand_answers : Answers (.cancel st) s (cancelCommand st c s) := by
  unfold cancelCommand
  split
  · exact ⟨.cancelled s st, by simp [Result.bare]⟩
  · exact .bare (by simp)

theorem clearTaintCommand_answers : Answers (.clearTaint st) s (clearTaintCommand st c s) := by
  unfold clearTaintCommand
  split
  · exact .bare (by simp)
  · split
    · exact .bare (by simp)
    · next i r h hu =>
      obtain ⟨hr, hh⟩ := State.record_of_holdingUnder hu
      split
      · exact .bare (by simp)
      · exact ⟨.untainted hr hh, by simp⟩

theorem view_code (r : Record) (v : View) : (r.view st v).code ≠ .none := by
  cases v with
  | summary => simp [Record.view, Record.summaryView]
  | waiter p =>
    unfold Record.view
    dsimp only
    split
    · simp [Result.bare]
    · simp [Waiter.view]
  | own =>
    unfold Record.view
    dsimp only
    split
    · simp [Result.bare]
    · simp [Holding.view]

theorem inspectCommand_answers : Answers (.inspect st) s (inspectCommand st c s) := by
  unfold inspectCommand
  split
  · exact .bare (by simp)
  · split
    · exact .bare (by simp)
    · split
      · exact .bare (by simp)
      · exact ⟨.nothing _ s, view_code st _ _⟩

theorem listFrom_answers {row : Instr} (hrow : turnStation row = some st) (cur : Cursor) :
    Answers row s (listFrom st cur s) := by
  unfold listFrom
  split
  · exact ⟨.listed _ hrow, by simp⟩
  · exact ⟨.listed _ hrow, by simp [Result.bare]⟩

theorem listFirstCommand_answers : Answers (.listFirst st) s (listFirstCommand st c s) := by
  unfold listFirstCommand
  split
  · exact .bare (by simp)
  · exact listFrom_answers st s rfl _

theorem listNextCommand_answers : Answers (.listNext st) s (listNextCommand st c s) := by
  unfold listNextCommand
  split
  · exact .bare (by simp)
  · exact listFrom_answers st s rfl _

theorem stationInfoCommand_answers : Answers (.stationInfo st) s (stationInfoCommand st c s) := by
  unfold stationInfoCommand
  split
  · exact .bare (by simp)
  · exact ⟨.nothing _ s, by simp [State.stationReport]⟩

theorem defineAbsent_answers {n : LockName} (a : Attributes) (hz : n ≠ 0) (hl : s.lookup n = none) :
    Answers (.define st) s (defineAbsent n a s) := by
  have habsent := ((s.lookup_eq_none n).mp hl).resolve_left hz
  unfold defineAbsent
  split
  · exact .bare (by simp)
  · next hcount =>
    split
    · exact .bare (by simp)
    · next i hi =>
      exact ⟨.defined a ((s.freeSlot_eq_some i).mp hi).1 hz habsent (not_le.mp hcount), by simp⟩

theorem defineCommand_answers : Answers (.define st) s (defineCommand st c s) := by
  unfold defineCommand
  split
  · exact .bare (by simp)
  · next a _ =>
    split
    · exact .bare (by simp)
    · next hz =>
      split
      · next hl => exact defineAbsent_answers st s a hz hl
      · next i r hl =>
        have hr := State.record_of_lookup hl
        split
        · exact .bare (by simp)
        · next hk =>
          have htransient : r.kind = .transient := by cases hkind : r.kind <;> simp_all
          split
          · exact .bare (by simp)
          · next hcount =>
            split
            · exact .bare (by simp)
            · exact ⟨.adopted a hr htransient (not_le.mp hcount), by simp [amendedResult]⟩

theorem amendCommand_answers : Answers (.amend st) s (amendCommand st c s) := by
  unfold amendCommand
  split
  · exact .bare (by simp)
  · next a _ =>
    split
    · exact .bare (by simp)
    · split
      · exact .bare (by simp)
      · next i r hl =>
        split
        · exact .bare (by simp)
        · next hk =>
          have hstanding : r.kind = .standing := by cases hkind : r.kind <;> simp_all
          split
          · exact .bare (by simp)
          · exact ⟨.amended a (State.record_of_lookup hl) hstanding, by simp [amendedResult]⟩

theorem retireCommand_answers : Answers (.retire st) s (retireCommand st c s) := by
  unfold retireCommand
  split
  · exact .bare (by simp)
  · split
    · exact .bare (by simp)
    · next i r hl =>
      split
      · exact .bare (by simp)
      · next hidle =>
        obtain ⟨hholder, hqueue⟩ := not_or.mp hidle
        exact ⟨.retired (State.record_of_lookup hl) (r.idle_iff.mp (by simpa using hholder)) (not_not.mp hqueue), by simp⟩

theorem configureClassCommand_answers : Answers (.configureClass st) s (configureClassCommand st c s) := by
  unfold configureClassCommand
  split
  · next k e _ he =>
    refine ⟨?_, ResultCode.noConfusion⟩
    dsimp only
    refine .classSet k ?_
    unfold Captured.classEntry at he
    split at he
    · next hlawful =>
      obtain rfl := Option.some.inj he
      exact hlawful
    · exact absurd he (by simp)
  · exact .bare (by simp)

theorem configurePrescalerCommand_answers : Answers (.configurePrescaler st) s (configurePrescalerCommand st c s) :=
  ⟨.prescalerSet s st c.s2, by simp [configurePrescalerCommand]⟩

theorem configureTickRunCommand_answers : Answers (.configureTickRun st) s (configureTickRunCommand st c s) := by
  unfold configureTickRunCommand
  split
  · exact .bare (by simp)
  · exact ⟨.runSet s st _, by simp⟩

theorem configureDefaultsCommand_answers : Answers (.configureDefaults st) s (configureDefaultsCommand st c s) := by
  unfold configureDefaultsCommand
  split
  · exact .bare (by simp)
  · exact ⟨.defaultsSet s st _, by simp⟩

end Commands

end Sys2Proof.Machine
end

section
/-!
SUPPORT. Every event as one of a short list, and the laws of the table that all work keeps.
-/

namespace Sys2Proof.Machine

/-! ### The events -/

/-- The station whose window an access reaches; none for the rows that are no access. -/
def accessStation : Instr → Option StationId
  | .resultRead st | .statusRead st | .noticeTake st | .maskSet st _ | .maskClear st _ | .faultCauseWrite st _
  | .unassignedOffset st _ _ | .windowWrite st _ _ => some st
  | .attach _ | .detach _ | .detachWalkStep _ | .claim _ | .release _ | .downgrade _ | .upgrade _ | .renew _ | .cancel _
  | .clearTaint _ | .inspect _ | .listFirst _ | .listNext _ | .stationInfo _ | .define _ | .amend _ | .retire _
  | .configureClass _ | .configurePrescaler _ | .configureTickRun _ | .configureDefaults _ | .purge _ | .purgeWalkStep _
  | .badCommand _ | .leaseTick | .leaseExpiry _ _ | .waitTimeOut _ | .reset _ => none

/-- The row is one of the three of the lease tick (R73). -/
def isTick : Instr → Bool
  | .leaseTick | .leaseExpiry _ _ | .waitTimeOut _ => true
  | _ => false

/-- What a row makes of the part. -/
inductive Event : Instr → State → State → Prop
  /-- RESET is high, or the row is no event in this state: of an engine row, it is not the next turn. -/
  | idle {row : Instr} {s : State} : (s.resetPin = false → s.turnDue ≠ some row) → Event row s s
  /-- A command completes in its one turn, with its work done or with nothing changed (R121, R123). -/
  | completed {row : Instr} {s u : State} {st : StationId} {c : Captured} {r : Result} : turnStation row = some st →
      s.pendingTurn st = some c → s.online st = true ∨ row = .attach st ∨ u = s → Work row s u → r.code ≠ .none →
      Event row s ((u.complete st r).endTurn st)
  /-- The first turn of a DETACH (R98). -/
  | detached {s : State} (st : StationId) (c : Captured) : s.pendingTurn st = some c → s.online st = true →
      Event (.detach st) s ((detachFirstTurn st c s).endTurn st)
  /-- The first turn of a PURGE (R104 to R106). -/
  | purged {s : State} (target : StationId) (c : Captured) : s.pendingTurn 0 = some c → s.online 0 = true →
      target ≠ 0 → s.online target = true → Event (.purge 0) s ((purgeFirstTurn 0 target c s).endTurn 0)
  /-- A later turn of a walk (R122). -/
  | walked {s : State} (st : StationId) (c : Captured) (w : Walk) : s.walkTurn st = some (c, w) →
      Event (w.kind.row st) s ((walkStep st c w s).endTurn st)
  /-- The lease tick (R73). -/
  | ticked {row : Instr} {s : State} : isTick row = true → s.lease.running = true → Event row s s.tick
  /-- A read access (R173). -/
  | read {row : Instr} {st : StationId} (off : Offset) (s : State) : accessStation row = some st →
      Event row s (busRead st off s)
  /-- A write access (R173). -/
  | write {row : Instr} {st : StationId} (off : Offset) (v : Byte) (s : State) : accessStation row = some st →
      Event row s (busWrite st off v s)
  /-- RESET takes the high level (R183). -/
  | resetHigh (s : State) : Event (.reset true) s { State.reset with resetPin := true, pending := s.pending }
  /-- RESET takes the low level (R183). -/
  | resetLow (s : State) : Event (.reset false) s { s with resetPin := false }

theorem Event.unlessReset {row : Instr} {s t : State} {f : State → State} (hf : Event row s (f s))
    (h : unlessReset s f = .next t) : Event row s t := by
  obtain rfl := Host.Outcome.next.inj h
  split
  · next hreset => exact .idle fun hlow => absurd (hreset.symm.trans hlow) (by simp)
  · exact hf

/-- A row that is no turn of the engine is never the next turn. -/
theorem turnDue_ne_of_noTurn {row : Instr} (hrow : turnStation row = none) (s : State) : s.turnDue ≠ some row := by
  intro hdue
  rcases State.turnDue_cases hdue with ⟨st, ⟨c, -, rfl⟩ | ⟨c, w, -, rfl⟩⟩
  · exact absurd ((turnStation_turnRow st c).symm.trans hrow) (by simp)
  · exact absurd ((turnStation_row st w.kind).symm.trans hrow) (by simp)

/-- No check before the command's own has refused it (R120). -/
theorem entryRefusal_eq_none {s : State} {st : StationId} {cmd : Command} (h : s.entryRefusal st cmd = none) :
    (cmd = .attach ∨ s.online st = true) ∧ (cmd.supervisorOnly = true → st = 0) := by
  unfold State.entryRefusal at h
  split_ifs at h with h1 h2
  refine ⟨?_, fun hs => by_contra fun hne => h2 ⟨hs, hne⟩⟩
  by_cases ha : cmd = .attach
  · exact .inl ha
  · exact .inr (by simpa using fun ho => h1 ⟨ha, ho⟩)

theorem entryRefusal_code {s : State} {st : StationId} {cmd : Command} {code : ResultCode}
    (h : s.entryRefusal st cmd = some code) : code ≠ .none := by
  unfold State.entryRefusal at h
  split_ifs at h
  all_goals
    obtain rfl := Option.some.inj h
    simp

/-- The turn of a captured command is no event, a refusal, or the command's own work, which an event of the row may be. -/
theorem commandTurn_event {row : Instr} {st : StationId} {cmd : Command} {mine : Captured → Bool}
    {own : Captured → State → State} {s : State} (hst : turnStation row = some st) (hrow : RowOf st row cmd mine)
    (hown : ∀ c, s.pendingTurn st = some c → s.entryRefusal st cmd = none → Event row s ((own c s).endTurn st)) :
    Event row s (commandTurn st cmd mine own s) := by
  by_cases hdue : s.turnDue = some row
  · rcases (State.turnDue_eq_some hst).mp hdue with ⟨c, hp, rfl⟩ | ⟨c, w, -, rfl⟩
    · obtain ⟨hc, hm⟩ := hrow.of_turnRow
      simp only [commandTurn, hp, hc, hm, and_self, if_true]
      split
      · next code hr => exact .completed hst hp (.inr (.inr rfl)) (.nothing _ s) (entryRefusal_code hr)
      · next hr => exact hown c hp hr
    · have hnames := hrow.names
      rw [turnNames_row] at hnames
      exact absurd hnames.symm (Option.some_ne_none _)
  · rw [(commandTurn_servedWhenDue own hst hrow).idle s hdue]
    exact .idle fun _ => hdue

/-- The row of an ordinary command. -/
theorem ordinaryRow_event {row : Instr} {st : StationId} {cmd : Command} {mine : Captured → Bool}
    {own : Captured → State → State × Result} {s t : State} (hst : turnStation row = some st)
    (hrow : RowOf st row cmd mine) (hattach : cmd = .attach → row = .attach st) (hown : ∀ c, Answers row s (own c s))
    (h : unlessReset s (ordinaryTurn st cmd mine own) = .next t) : Event row s t := by
  refine Event.unlessReset (commandTurn_event hst hrow fun c hp hr => ?_) h
  have hentry : s.online st = true ∨ row = .attach st ∨ (own c s).1 = s :=
    (entryRefusal_eq_none hr).1.elim (fun ha => .inr (.inl (hattach ha))) .inl
  exact .completed hst hp hentry (hown c).1 (hown c).2

theorem detachRow_event {st : StationId} {s t : State} (hrow : RowOf st (.detach st) .detach anyOperands)
    (h : unlessReset s (commandTurn st .detach anyOperands (detachFirstTurn st)) = .next t) : Event (.detach st) s t := by
  refine Event.unlessReset (commandTurn_event rfl hrow fun c hp hr => ?_) h
  exact .detached st c hp ((entryRefusal_eq_none hr).1.resolve_left (by simp))

theorem Captured.purgeTarget_ne_zero {c : Captured} {target : StationId} (h : c.purgeTarget = some target) :
    target ≠ 0 := by
  unfold Captured.purgeTarget stationOf at h
  split_ifs at h with hz hlt
  obtain rfl := Option.some.inj h
  intro hzero
  refine hz (BitVec.eq_of_toNat_eq ?_)
  simpa using congrArg Fin.val hzero

theorem purgeRow_event {st : StationId} {s t : State} (hrow : RowOf st (.purge st) .purge anyOperands)
    (h : unlessReset s (commandTurn st .purge anyOperands (purgeCommand st)) = .next t) : Event (.purge st) s t := by
  refine Event.unlessReset (commandTurn_event rfl hrow fun c hp hr => ?_) h
  obtain ⟨honline, hzero⟩ := entryRefusal_eq_none hr
  obtain rfl := hzero rfl
  have honline := honline.resolve_left (by simp)
  unfold purgeCommand
  split
  · exact .completed rfl hp (.inr (.inr rfl)) (.nothing _ s) (by simp [Result.bare])
  · next target htarget =>
    split
    · next htargetOnline => exact .purged target c hp honline (Captured.purgeTarget_ne_zero htarget) htargetOnline
    · exact .completed rfl hp (.inr (.inr rfl)) (.nothing _ s) (by simp [Result.bare])

theorem walkRow_event {kind : WalkKind} {st : StationId} {s t : State}
    (h : unlessReset s (laterTurn kind st) = .next t) : Event (kind.row st) s t := by
  refine Event.unlessReset ?_ h
  by_cases hdue : s.turnDue = some (kind.row st)
  · rcases (State.turnDue_eq_some (turnStation_row st kind)).mp hdue with ⟨c, -, hrow⟩ | ⟨c, w, hw, hrow⟩
    · exact absurd hrow.symm (turnRow_ne_row st st c kind)
    · obtain rfl := WalkKind.row_injective st hrow
      simp only [laterTurn, hw, if_true]
      exact .walked st c w hw
  · rw [(laterTurn_servedWhenDue kind st).idle s hdue]
    exact .idle fun _ => hdue

theorem badCommandRow_event {st : StationId} {s t : State} (h : unlessReset s (badCommandTurn st) = .next t) :
    Event (.badCommand st) s t := by
  refine Event.unlessReset ?_ h
  by_cases hdue : s.turnDue = some (.badCommand st)
  · rcases (State.turnDue_eq_some rfl).mp hdue with ⟨c, hp, hrow⟩ | ⟨c, w, -, hrow⟩
    · rw [badCommandTurn_of_none hp ((turnRow_eq_badCommand st c).mp hrow.symm)]
      exact .completed rfl hp (.inr (.inr rfl)) (.nothing _ s) (by simp)
    · have hnone : turnNames (.badCommand st) = none := by rw [hrow, turnNames_row]
      exact absurd hnone (Option.some_ne_none none)
  · rw [(badCommandTurn_servedWhenDue st).idle s hdue]
    exact .idle fun _ => hdue

theorem noTurn_of_isTick {row : Instr} (hrow : isTick row = true) : turnStation row = none := by
  cases row with
  | leaseTick => rfl
  | leaseExpiry => rfl
  | waitTimeOut => rfl
  | _ => exact absurd hrow (by simp [isTick])

theorem Event.idle_of_noTurn {row : Instr} (hrow : turnStation row = none) (s : State) : Event row s s :=
  .idle fun _ => turnDue_ne_of_noTurn hrow s

theorem nextTick_event {row : Instr} (hrow : isTick row = true) (s : State) : Event row s s.nextTick := by
  unfold State.nextTick
  split
  · next hrun => exact .ticked hrow hrun
  · exact .idle_of_noTurn (noTurn_of_isTick hrow) s

/-- Every command makes one of the events of the list. -/
theorem exec_event {row : Instr} {s t : State} (h : exec row s = .next t) : Event row s t := by
  cases row with
  | attach st =>
    exact ordinaryRow_event rfl (rowOf_anyOperands rfl fun c hc => by rw [turnRow, hc])
      (fun _ => rfl) (fun c => attachCommand_answers st c s) h
  | detach st =>
    exact detachRow_event (rowOf_anyOperands rfl fun c hc => by rw [turnRow, hc]) h
  | detachWalkStep st => exact walkRow_event (kind := .detach) h
  | claim st =>
    exact ordinaryRow_event rfl (rowOf_anyOperands rfl fun c hc => by rw [turnRow, hc])
      (by simp) (fun c => claimCommand_answers st c s) h
  | release st =>
    exact ordinaryRow_event rfl (rowOf_anyOperands rfl fun c hc => by rw [turnRow, hc])
      (by simp) (fun c => releaseCommand_answers st c s) h
  | downgrade st =>
    exact ordinaryRow_event rfl (rowOf_anyOperands rfl fun c hc => by rw [turnRow, hc])
      (by simp) (fun c => downgradeCommand_answers st c s) h
  | upgrade st =>
    exact ordinaryRow_event rfl (rowOf_anyOperands rfl fun c hc => by rw [turnRow, hc])
      (by simp) (fun c => upgradeCommand_answers st c s) h
  | renew st =>
    exact ordinaryRow_event rfl (rowOf_anyOperands rfl fun c hc => by rw [turnRow, hc])
      (by simp) (fun c => renewCommand_answers st c s) h
  | cancel st =>
    exact ordinaryRow_event rfl (rowOf_anyOperands rfl fun c hc => by rw [turnRow, hc])
      (by simp) (fun c => cancelCommand_answers st c s) h
  | clearTaint st =>
    exact ordinaryRow_event rfl (rowOf_anyOperands rfl fun c hc => by rw [turnRow, hc])
      (by simp) (fun c => clearTaintCommand_answers st c s) h
  | inspect st =>
    exact ordinaryRow_event rfl (rowOf_anyOperands rfl fun c hc => by rw [turnRow, hc])
      (by simp) (fun c => inspectCommand_answers st c s) h
  | listFirst st =>
    exact ordinaryRow_event rfl (rowOf_anyOperands rfl fun c hc => by rw [turnRow, hc])
      (by simp) (fun c => listFirstCommand_answers st c s) h
  | listNext st =>
    exact ordinaryRow_event rfl (rowOf_anyOperands rfl fun c hc => by rw [turnRow, hc])
      (by simp) (fun c => listNextCommand_answers st c s) h
  | stationInfo st =>
    exact ordinaryRow_event rfl (rowOf_anyOperands rfl fun c hc => by rw [turnRow, hc])
      (by simp) (fun c => stationInfoCommand_answers st c s) h
  | define st =>
    exact ordinaryRow_event rfl (rowOf_anyOperands rfl fun c hc => by rw [turnRow, hc])
      (by simp) (fun c => defineCommand_answers st c s) h
  | amend st =>
    exact ordinaryRow_event rfl (rowOf_anyOperands rfl fun c hc => by rw [turnRow, hc])
      (by simp) (fun c => amendCommand_answers st c s) h
  | retire st =>
    exact ordinaryRow_event rfl (rowOf_anyOperands rfl fun c hc => by rw [turnRow, hc])
      (by simp) (fun c => retireCommand_answers st c s) h
  | configureClass st =>
    exact ordinaryRow_event rfl ⟨rfl, fun _ hc => (turnRow_configure hc).1⟩
      (by simp) (fun c => configureClassCommand_answers st c s) h
  | configurePrescaler st =>
    exact ordinaryRow_event rfl ⟨rfl, fun _ hc => (turnRow_configure hc).2.1⟩
      (by simp) (fun c => configurePrescalerCommand_answers st c s) h
  | configureTickRun st =>
    exact ordinaryRow_event rfl ⟨rfl, fun _ hc => (turnRow_configure hc).2.2.1⟩
      (by simp) (fun c => configureTickRunCommand_answers st c s) h
  | configureDefaults st =>
    exact ordinaryRow_event rfl ⟨rfl, fun _ hc => (turnRow_configure hc).2.2.2⟩
      (by simp) (fun c => configureDefaultsCommand_answers st c s) h
  | purge st =>
    exact purgeRow_event (rowOf_anyOperands rfl fun c hc => by rw [turnRow, hc]) h
  | purgeWalkStep st => exact walkRow_event (kind := .purge) h
  | badCommand st => exact badCommandRow_event h
  | leaseTick => exact Event.unlessReset (nextTick_event rfl s) h
  | leaseExpiry st i =>
    refine Event.unlessReset ?_ h
    split
    · exact nextTick_event rfl s
    · exact .idle_of_noTurn rfl s
  | waitTimeOut st =>
    refine Event.unlessReset ?_ h
    split
    · exact nextTick_event rfl s
    · exact .idle_of_noTurn rfl s
  | resultRead st => exact Event.unlessReset (.read _ s rfl) h
  | statusRead st => exact Event.unlessReset (.read _ s rfl) h
  | noticeTake st => exact Event.unlessReset (.read _ s rfl) h
  | maskSet st v => exact Event.unlessReset (.write _ v s rfl) h
  | maskClear st v => exact Event.unlessReset (.write _ v s rfl) h
  | faultCauseWrite st v => exact Event.unlessReset (.write _ v s rfl) h
  | unassignedOffset st off written =>
    refine Event.unlessReset ?_ h
    cases written with
    | none => exact .read off s rfl
    | some v => exact .write off v s rfl
  | windowWrite st off v => exact Event.unlessReset (.write off v s rfl) h
  | reset high =>
    obtain rfl := Host.Outcome.next.inj h
    cases high with
    | true => exact .resetHigh s
    | false => exact .resetLow s

/-! ### Laws of the table and of the lease classes -/

/-- The states have the same records, counts and lease classes. -/
def SameLocks (s t : State) : Prop := SameTable s t ∧ t.lease.classes = s.lease.classes

theorem SameLocks.refl (s : State) : SameLocks s s := ⟨.refl s, rfl⟩

theorem sameLocks_modifyCtx (s : State) (st : StationId) (f : Station → Station) : SameLocks s (s.modifyCtx st f) :=
  ⟨sameTable_modifyCtx s st f, rfl⟩

/-- An access reaches neither the table nor the lease unit (R91, R127). -/
theorem busRead_sameLocks (st : StationId) (off : Offset) (s : State) : SameLocks s (busRead st off s) := by
  refine ⟨busRead_sameTable st off s, ?_⟩
  unfold busRead readEffect
  rw [State.drive_lease]
  split_ifs <;> rfl

theorem busWrite_sameLocks (st : StationId) (off : Offset) (v : Byte) (s : State) : SameLocks s (busWrite st off v s) := by
  refine ⟨busWrite_sameTable st off v s, ?_⟩
  unfold busWrite writeEffect commandWrite
  rw [State.release_lease]
  split_ifs <;> rfl

/-- The property is one of the table and the lease classes, it holds at reset, and the work of commands, the end of a wait,
the step of a walk and the tick keep it. -/
structure KeptByWork (P : State → Prop) : Prop where
  congr : ∀ {s t : State}, SameLocks s t → P s → P t
  atReset : P State.reset
  work : ∀ {row : Instr} {s t : State}, Work row s t → P s → P t
  walkEffect : ∀ (w : Walk) (s : State), P s → P (walkEffect w s).1
  tickTable : ∀ s : State, P s → P s.tickTable

namespace KeptByWork

variable {P : State → Prop} (hP : KeptByWork P) {s t : State}
include hP

/-- The end of a wait is the work of a CANCEL (R58). -/
theorem endWait (st : StationId) (hs : P s) : P (s.endWait st) := hP.work (.cancelled s st) hs

theorem walkStep (st : StationId) (c : Captured) (w : Walk) (hs : P s) : P (walkStep st c w s) := by
  have heffect := hP.walkEffect w s hs
  unfold Machine.walkStep
  dsimp only
  split
  · exact hP.congr (s := (Machine.walkEffect w s).1) ⟨⟨rfl, rfl, rfl⟩, rfl⟩ heffect
  · exact hP.congr (s := (Machine.walkEffect w s).1) ⟨⟨rfl, rfl, rfl⟩, rfl⟩ heffect

theorem tick (hs : P s) : P s.tick :=
  hP.tickTable _ (hP.congr (s := s) ⟨⟨rfl, rfl, rfl⟩, rfl⟩ hs)

/-- Every event keeps what all work keeps. -/
theorem event {row : Instr} (h : Event row s t) (hs : P s) : P t := by
  cases h with
  | idle => exact hs
  | completed _ _ _ hwork _ =>
    have hworked := hP.work hwork hs
    exact hP.congr ⟨sameTable_posted _ _ _, rfl⟩ hworked
  | detached st c _ _ =>
    have hdetaching : P (s.setLife st .detaching) := hP.congr (sameLocks_modifyCtx s st _) hs
    have hended := hP.congr (sameLocks_modifyCtx _ st fun x => { x with notices := [], cursor := none })
      (hP.endWait st hdetaching)
    exact hP.congr ⟨sameTable_endTurn _ st, rfl⟩ (hP.walkStep st c (Walk.start .detach st) hended)
  | purged target c _ _ _ _ =>
    have hcleared : P (s.modifyCtx target Station.purged) := hP.congr (sameLocks_modifyCtx s target _) hs
    have hended := hP.congr (sameLocks_modifyCtx _ target fun x => { x with life := .purging })
      (hP.endWait target hcleared)
    exact hP.congr ⟨sameTable_endTurn _ 0, rfl⟩ (hP.walkStep 0 c (Walk.start .purge target) hended)
  | walked st c w _ => exact hP.congr ⟨sameTable_endTurn _ st, rfl⟩ (hP.walkStep st c w hs)
  | ticked _ _ => exact hP.tick hs
  | read off _ _ => exact hP.congr (busRead_sameLocks _ off s) hs
  | write off v _ _ => exact hP.congr (busWrite_sameLocks _ off v s) hs
  | resetHigh => exact hP.congr (s := State.reset) ⟨⟨rfl, rfl, rfl⟩, rfl⟩ hP.atReset
  | resetLow => exact hP.congr (s := s) ⟨⟨rfl, rfl, rfl⟩, rfl⟩ hs

theorem clockPeriod (hs : P s) : P s.clockPeriod := by
  unfold State.clockPeriod
  split
  · split
    · exact hP.tick hs
    · exact hP.congr (s := s) ⟨⟨rfl, rfl, rfl⟩, rfl⟩ hs
  · exact hs

/-- Every step keeps what all work keeps. -/
theorem step (hs : P s) (h : step s = .next t) : P t := by
  unfold Machine.step at h
  split at h
  · exact unlessReset_keeps hs (hP.clockPeriod hs) h
  · next rest _ =>
    have htaken : P { s with pending := rest } := hP.congr (s := s) ⟨⟨rfl, rfl, rfl⟩, rfl⟩ hs
    exact hP.event (exec_event h) htaken

end KeptByWork

end Sys2Proof.Machine
end

section
/-!
SUPPORT. R21: work keeps the records it does not make or remove under their names and kinds, and settles what it leaves
without a reason to stand. With it, O55.
-/

namespace Sys2Proof.Machine

/-! ### Counts over the slots -/

/-- Two tests of the numbers that differ at one number at most have counts that differ by what they say of it. -/
theorem countP_finRange_update {n : Nat} (p q : Fin n → Bool) (i : Fin n) (h : ∀ j, j ≠ i → q j = p j) :
    (List.finRange n).countP q + (if p i = true then 1 else 0) =
      (List.finRange n).countP p + (if q i = true then 1 else 0) := by
  obtain ⟨l₁, l₂, hl⟩ := List.append_of_mem (List.mem_finRange i)
  have hn := List.nodup_finRange n
  rw [hl, List.nodup_append] at hn
  have h1 : ∀ j ∈ l₁, j ≠ i := fun j hj => hn.2.2 j hj i List.mem_cons_self
  have h2 : ∀ j ∈ l₂, j ≠ i := fun j hj e => (List.nodup_cons.mp hn.2.1).1 (e ▸ hj)
  have e1 : l₁.countP q = l₁.countP p := List.countP_congr fun j hj => by rw [h j (h1 j hj)]
  have e2 : l₂.countP q = l₂.countP p := List.countP_congr fun j hj => by rw [h j (h2 j hj)]
  rw [hl, List.countP_append, List.countP_append, List.countP_cons, List.countP_cons, e1, e2]
  omega

/-- The number of standing records when one slot is written. -/
theorem standingRecords_setRecord (s : State) (i : SlotId) (o : Option Record) :
    (s.setRecord i o).standingRecords + (if (s.record i).any (·.kind == .standing) = true then 1 else 0) =
      s.standingRecords + (if o.any (·.kind == .standing) = true then 1 else 0) := by
  have h := countP_finRange_update (fun j => (s.record j).any (·.kind == .standing))
    (fun j => ((s.setRecord i o).record j).any (·.kind == .standing)) i
    fun j hj => by rw [s.record_setRecord_ne i j o hj]
  unfold State.standingRecords allSlots
  simpa only [State.record_setRecord_same] using h

/-! ### Names and kinds that stay -/

/-- Every record had its name and kind in its slot before; a slot that held a standing record still does; and the standing
count is the same. -/
structure SameNames (s t : State) : Prop where
  before : ∀ i, ∀ r' ∈ t.record i, ∃ r ∈ s.record i, r'.name = r.name ∧ r'.kind = r.kind
  stays : ∀ i, ∀ r ∈ s.record i, r.kind = .standing → t.record i ≠ none
  count : t.standingCount = s.standingCount

theorem sameNames_of_slots {s t : State} (h : t.slots = s.slots) (hc : t.standingCount = s.standingCount) :
    SameNames s t := by
  have hrec (i : SlotId) : t.record i = s.record i := by rw [State.record, h]; rfl
  refine ⟨fun i r' hr' => ⟨r', hrec i ▸ hr', rfl, rfl⟩, fun i r hr _ => ?_, hc⟩
  rw [hrec, hr]
  exact Option.some_ne_none r

theorem SameNames.trans {s t u : State} (h : SameNames s t) (k : SameNames t u) : SameNames s u where
  before i p hp := by
    obtain ⟨q, hq, hn, hk⟩ := k.before i p hp
    obtain ⟨r, hr, hn', hk'⟩ := h.before i q hq
    exact ⟨r, hr, hn.trans hn', hk.trans hk'⟩
  stays i r hr hs := by
    obtain ⟨q, hq⟩ := Option.ne_none_iff_exists'.mp (h.stays i r hr hs)
    obtain ⟨p, hp, -, hk⟩ := h.before i q hq
    obtain rfl := Option.some.inj (hr.symm.trans hp)
    exact k.stays i q hq (hk.trans hs)
  count := k.count.trans h.count

theorem sameNames_setRecord {s : State} {i : SlotId} {r q : Record} (hr : s.record i = some r) (hn : q.name = r.name)
    (hk : q.kind = r.kind) : SameNames s (s.setRecord i (some q)) where
  before j p hp := by
    rw [State.record_setRecord] at hp
    split at hp
    · next e =>
      obtain rfl := Option.some.inj hp
      exact ⟨r, e ▸ hr, hn, hk⟩
    · exact ⟨p, hp, rfl, rfl⟩
  stays j p hp _ := by
    rw [State.record_setRecord]
    split
    · exact Option.some_ne_none q
    · rw [hp]
      exact Option.some_ne_none p
  count := rfl

/-- Settling may retire a record that is not standing, and keeps every other under its name (R17, R36). -/
theorem sameNames_settle (s : State) (i : SlotId) : SameNames s (s.settle i) := by
  cases hr : s.record i with
  | none =>
    rw [s.settle_none i hr]
    exact sameNames_of_slots rfl rfl
  | some r =>
    have hrun := settleRun_spec s r
    refine ⟨fun j q hq => ?_, fun j p hp hs => ?_, s.settle_standingCount i⟩
    · by_cases hj : j = i
      · subst hj
        rw [s.record_settle_mem j r q hr hq]
        exact ⟨r, hr, hrun.name, hrun.kind⟩
      · rw [s.record_settle_ne i j hj] at hq
        exact ⟨q, hq, rfl, rfl⟩
    · by_cases hj : j = i
      · subst hj
        obtain rfl := Option.some.inj (hr.symm.trans hp)
        have hstays : ¬ (settleRun s r).1.ToRetire := fun ht => by
          have := ht.1.symm.trans (hrun.kind.trans hs)
          exact absurd this (by simp)
        rw [(s.record_settle j r hr).2 hstays]
        exact Option.some_ne_none _
      · rw [s.record_settle_ne i j hj, hp]
        exact Option.some_ne_none p

theorem sameNames_settle_setRecord {s : State} {i : SlotId} {r q : Record} (hr : s.record i = some r)
    (hn : q.name = r.name) (hk : q.kind = r.kind) : SameNames s ((s.setRecord i (some q)).settle i) :=
  (sameNames_setRecord hr hn hk).trans (sameNames_settle _ i)

theorem sameNames_settle_dropHolding {s : State} {i : SlotId} {r q : Record} (hr : s.record i = some r)
    (hn : q.name = r.name) (hk : q.kind = r.kind) (a : StationId) : SameNames s ((s.dropHolding i q a).settle i) := by
  have hset : SameNames s (s.setRecord i (some (q.setHolding a none))) := sameNames_setRecord hr hn hk
  have hdrop : SameNames s (s.dropHolding i q a) := hset.trans (sameNames_of_slots rfl rfl)
  exact hdrop.trans (sameNames_settle _ i)

theorem sameNames_storeAmended {s : State} {i : SlotId} {r q : Record} (hr : s.record i = some r)
    (hn : q.name = r.name) (hk : q.kind = r.kind) : SameNames s (s.storeAmended i q) := by
  have hset : SameNames s (s.setRecord i (some (q.withdrawOutside q.attrs))) := sameNames_setRecord hr hn hk
  have htold := sameNames_of_slots
    ((s.setRecord i (some (q.withdrawOutside q.attrs))).queueNotices_slots ((q.leftOut q.attrs).map q.permitNotice))
    (State.queueNotices_standingCount _ _)
  exact (hset.trans htold).trans (sameNames_settle _ i)

theorem sameNames_endWait (s : State) (st : StationId) : SameNames s (s.endWait st) := by
  unfold State.endWait
  split
  · exact sameNames_of_slots rfl rfl
  · next i r w hw => exact sameNames_settle_setRecord (s.waitOf_spec st i r w hw).1 rfl rfl

theorem sameNames_walkEffect (w : Walk) (s : State) : SameNames s (walkEffect w s).1 := by
  unfold walkEffect
  split
  · exact sameNames_of_slots rfl rfl
  · next r hr =>
    split
    · exact sameNames_of_slots rfl rfl
    · dsimp only
      refine sameNames_settle_dropHolding hr ?_ ?_ w.target
      · split <;> rfl
      · split <;> rfl

theorem sameNames_refitSlot (k : ClassId) (length : Byte) (s : State) (i : SlotId) :
    SameNames s (s.refitSlot k length i) := by
  unfold State.refitSlot
  split
  · exact sameNames_of_slots rfl rfl
  · next r hr =>
    split
    · exact sameNames_setRecord hr rfl rfl
    · exact sameNames_of_slots rfl rfl

theorem sameNames_refitAll (k : ClassId) (e : LeaseClass) (s : State) :
    SameNames s (allSlots.foldl (State.refitSlot k e.length) (s.setClass k e)) :=
  foldl_holds (State.refitSlot k e.length) (SameNames s) (fun u i hu => hu.trans (sameNames_refitSlot k e.length u i))
    allSlots _ (sameNames_of_slots rfl rfl)

/-- A standing record does not retire at a tick (R17). -/
theorem afterTick_ne_none {r : Record} (full : Option Nat) (h : r.kind = .standing) : r.afterTick full ≠ none := by
  unfold Record.afterTick
  split
  · have hk : (grantRun full r.ticked.queue r.ticked).1.kind = .standing := (grantRun_spec full _ r.ticked).kind.trans h
    have hnot : ¬ (grantRun full r.ticked.queue r.ticked).1.retires = true := by
      rw [Record.retires_iff]
      exact fun ht => absurd (ht.1.symm.trans hk) (by simp)
    dsimp only
    rw [if_neg hnot]
    exact Option.some_ne_none _
  · exact Option.some_ne_none _

theorem sameNames_tickTable (s : State) : SameNames s s.tickTable where
  before i r' hr' := by
    rw [State.record_tickTable] at hr'
    obtain ⟨r, hr, hafter⟩ := Option.bind_eq_some_iff.mp hr'
    obtain ⟨hn, hk, -⟩ := Record.afterTick_attrs r r' _ hafter
    exact ⟨r, hr, hn, hk⟩
  stays i r hr hs := by
    rw [State.record_tickTable, hr]
    exact afterTick_ne_none _ hs
  count := s.tickTable_standingCount

/-- Names stay apart while no record appears or changes its name. -/
theorem namesLaw_of_names {s t : State} (h : ∀ i, ∀ r' ∈ t.record i, ∃ r ∈ s.record i, r'.name = r.name)
    (hs : s.NamesLaw) : t.NamesLaw := by
  intro i r' hr'
  obtain ⟨r, hr, hn⟩ := h i r' hr'
  obtain ⟨hz, hunique⟩ := hs i r hr
  refine ⟨hn ▸ hz, fun j q' hq' hsame => ?_⟩
  obtain ⟨q, hq, hn'⟩ := h j q' hq'
  exact hunique j q hq (hn'.symm.trans (hsame.trans hn))

theorem SameNames.namesLaw {s t : State} (h : SameNames s t) (hs : s.NamesLaw) : t.NamesLaw := by
  refine namesLaw_of_names (fun i r' hr' => ?_) hs
  obtain ⟨r, hr, hn, -⟩ := h.before i r' hr'
  exact ⟨r, hr, hn⟩

theorem SameNames.standingLaw {s t : State} (h : SameNames s t) (hs : s.StandingLaw) : t.StandingLaw := by
  have hkinds (i : SlotId) : (t.record i).any (·.kind == .standing) = (s.record i).any (·.kind == .standing) := by
    cases hr' : t.record i with
    | none =>
      cases hr : s.record i with
      | none => rfl
      | some r =>
        have hk : r.kind ≠ .standing := fun hk => h.stays i r hr hk hr'
        simp [hk]
    | some r' =>
      obtain ⟨r, hr, -, hk⟩ := h.before i r' hr'
      rw [hr, Option.any_some, Option.any_some, hk]
  have hcount : t.standingRecords = s.standingRecords := by
    unfold State.standingRecords
    simp only [hkinds]
  unfold State.StandingLaw
  rw [h.count, hcount]
  exact hs

/-! ### Records that are justified -/

/-- A record to retire is one that nothing justifies (R17, R21). -/
theorem Record.justified_iff (r : Record) : r.Justified ↔ ¬ r.ToRetire := by
  have hkind : ¬ r.kind = .transient ↔ r.kind = .standing := by cases r.kind <;> simp
  unfold Record.Justified Record.ToRetire
  rw [not_and_or, not_and_or, not_and_or, hkind]

theorem justified_of_holding {r : Record} {a : StationId} {h : Holding} (hh : r.holding a = some h) : r.Justified :=
  .inr (.inl fun hno => by simp [hno a] at hh)

theorem justified_setHolding (r : Record) (a : StationId) (h : Holding) : (r.setHolding a (some h)).Justified :=
  justified_of_holding (r.holding_setHolding_same a _)

theorem Record.Justified.of_sameModes {r r' : Record} (h : r.Justified) (hm : SameModes r r') (hk : r'.kind = r.kind)
    (hq : r'.queue = [] ↔ r.queue = []) (ht : r'.taint = r.taint) : r'.Justified := by
  unfold Record.Justified at *
  rwa [hk, hm.noHolder, Ne, hq, ht]

/-- What nothing justifies after a removal retires, so every record is justified once the record is settled (R17, R40). -/
theorem settle_justified {s : State} {i : SlotId} (h : ∀ j, j ≠ i → ∀ r ∈ s.record j, r.Justified) :
    (s.settle i).EveryRecord Record.Justified := by
  intro j r' hr'
  by_cases hj : j = i
  · subst hj
    cases hr : s.record j with
    | none =>
      rw [s.settle_none j hr, hr] at hr'
      exact absurd hr' (by simp)
    | some r =>
      have hrun := s.record_settle_mem j r r' hr hr'
      subst hrun
      rw [Record.justified_iff]
      intro ht
      rw [(s.record_settle j r hr).1 ht] at hr'
      exact absurd hr' (by simp)
  · rw [s.record_settle_ne i j hj] at hr'
    exact h j hj r' hr'

theorem settle_justified_of_slots {s u : State} {i : SlotId} {o : Option Record} (hs : s.EveryRecord Record.Justified)
    (hu : u.slots = (s.setRecord i o).slots) : (u.settle i).EveryRecord Record.Justified := by
  refine settle_justified fun j hj r hr => hs j r ?_
  rw [State.record, hu] at hr
  exact (s.record_setRecord_ne i j o hj).symm.trans hr

theorem afterTick_justified {r r' : Record} {full : Option Nat} (hr : r.Justified) (h : r.afterTick full = some r') :
    r'.Justified := by
  unfold Record.afterTick at h
  split at h
  · simp only [Option.ite_none_left_eq_some, Option.some.injEq] at h
    obtain ⟨hstays, rfl⟩ := h
    rw [Record.justified_iff]
    exact mt (Record.retires_iff _).mpr hstays
  · next hremoves =>
    obtain rfl := Option.some.inj h
    have hremoves : r.tickRemoves = false := by simpa using hremoves
    have hqueue : r.ticked.queue = [] ↔ r.queue = [] := by
      rw [Record.ticked_queue, tickedQueue_eq_map hremoves, List.map_eq_nil_iff]
    refine hr.of_sameModes (sameModes_ticked hremoves) rfl hqueue ?_
    have hnone : (allStations.find? fun st => (r.holding st).any fun h => h.expires && h.mode == .exclusive) = none := by
      rw [List.find?_eq_none]
      intro a _ hany
      have hexpires : r.expiresAt a = true := by
        unfold Record.expiresAt
        cases hh : r.holding a with
        | none => simp [hh] at hany
        | some g =>
          simp only [hh, Option.any_some, Bool.and_eq_true] at hany
          exact hany.1
      have hends := r.tickRemoves_iff.mpr (.inl ⟨a, (r.expiresAt_iff a).mp hexpires⟩)
      exact absurd hends (by simp [hremoves])
    rw [Record.ticked_taint, Record.tickedTaint, hnone]

/-! ### The law of the table -/

/-- A change under which names, kinds and the standing count stay keeps the law where the records it leaves are justified. -/
theorem SameNames.tableLaw {s t : State} (h : SameNames s t) (hs : s.TableLaw) (hj : t.EveryRecord Record.Justified) :
    t.TableLaw :=
  ⟨hj, h.namesLaw hs.2.1, h.standingLaw hs.2.2⟩

theorem tableLaw_setRecord {s : State} (hs : s.TableLaw) {i : SlotId} {r q : Record} (hr : s.record i = some r)
    (hn : q.name = r.name) (hk : q.kind = r.kind) (hq : q.Justified) : (s.setRecord i (some q)).TableLaw :=
  (sameNames_setRecord hr hn hk).tableLaw hs (hs.1.setRecord i fun p hp => by obtain rfl := Option.some.inj hp; exact hq)

/-- A new record may take a free slot under a name that no record has (R13, R14, R21). -/
theorem namesLaw_create {s : State} (hs : s.NamesLaw) {i : SlotId} {q : Record} (hz : q.name ≠ 0)
    (ha : s.Absent q.name) : (s.setRecord i (some q)).NamesLaw := by
  intro j p hp
  rw [State.record_setRecord] at hp
  split at hp
  · next e =>
    obtain rfl := Option.some.inj hp
    refine ⟨hz, fun k p' hp' hsame => ?_⟩
    rw [State.record_setRecord] at hp'
    split at hp'
    · next e' => exact e'.trans e.symm
    · exact absurd hsame (ha k p' hp')
  · refine ⟨(hs j p hp).1, fun k p' hp' hsame => ?_⟩
    rw [State.record_setRecord] at hp'
    split at hp'
    · obtain rfl := Option.some.inj hp'
      exact absurd hsame.symm (ha j p hp)
    · exact (hs j p hp).2 k p' hp' hsame

theorem standingRecords_create {s : State} {i : SlotId} (hi : s.record i = none) (q : Record) :
    (s.setRecord i (some q)).standingRecords = s.standingRecords + if q.kind = .standing then 1 else 0 := by
  have h := standingRecords_setRecord s i (some q)
  simpa [hi] using h

theorem State.setRecord_setRecord (s : State) (i : SlotId) (o o' : Option Record) :
    (s.setRecord i o).setRecord i o' = s.setRecord i o' := by
  simp [State.setRecord]

/-- What is stored amended in a slot does not depend on what the slot held. -/
theorem storeAmended_setRecord (s : State) (i : SlotId) (o : Option Record) (r : Record) :
    (s.setRecord i o).storeAmended i r = s.storeAmended i r := by
  unfold State.storeAmended
  rw [State.setRecord_setRecord]

/-- The record of a slot made standing, and counted. -/
theorem tableLaw_madeStanding {s : State} (hs : s.TableLaw) {i : SlotId} {r q : Record} (hr : s.record i = some r)
    (hk : r.kind = .transient) (hn : q.name = r.name) (hq : q.kind = .standing) (hc : s.standingCount < 48) :
    ((s.setStandingCount (s.standingCount + 1)).setRecord i (some q)).TableLaw := by
  obtain ⟨hj, hnames, hcount, -⟩ := hs
  refine ⟨?justified, ?names, ?counted, Nat.succ_le_of_lt hc⟩
  case justified =>
    refine State.EveryRecord.setRecord (hj.congr rfl) i fun p hp => ?_
    obtain rfl := Option.some.inj hp
    exact .inl hq
  case names =>
    refine namesLaw_of_names (s := s) (fun j p hp => ?_) hnames
    rw [State.record_setRecord] at hp
    split at hp
    · next e =>
      obtain rfl := Option.some.inj hp
      exact ⟨r, e ▸ hr, hn⟩
    · exact ⟨p, hp, rfl⟩
  case counted =>
    have h := standingRecords_setRecord s i (some q)
    simp only [hr, Option.any_some, hk, hq] at h
    show s.standingCount + 1 = (s.setRecord i (some q)).standingRecords
    rw [hcount]
    simpa using h.symm

/-- Adoption makes one transient record standing and counts it (R167). -/
theorem tableLaw_adopted {s : State} (hs : s.TableLaw) {i : SlotId} {r : Record} (a : Attributes)
    (hr : s.record i = some r) (hk : r.kind = .transient) (hc : s.standingCount < 48) :
    ((s.setStandingCount (s.standingCount + 1)).storeAmended i (s.adopted r a)).TableLaw := by
  have hmade := tableLaw_madeStanding (q := s.adopted r a) hs hr hk rfl rfl hc
  have hstored := sameNames_storeAmended
    (State.record_setRecord_same (s.setStandingCount (s.standingCount + 1)) i (some (s.adopted r a))) rfl rfl
  rw [storeAmended_setRecord] at hstored
  exact hstored.tableLaw hmade (settle_justified_of_slots (s := s) hs.1 (State.queueNotices_slots _ _))

theorem tableLaw_retired {s : State} (hs : s.TableLaw) {i : SlotId} {r : Record} (hr : s.record i = some r) :
    (s.removeRecord i r).TableLaw := by
  obtain ⟨hj, hnames, hcount, hle⟩ := hs
  refine ⟨?justified, ?names, ?counted⟩
  case justified =>
    exact State.EveryRecord.congr (s := s.setRecord i none) (hj.setRecord i fun _ hp => absurd hp (by simp)) rfl
  case names =>
    refine namesLaw_of_names (s := s) (fun j p hp => ?_) hnames
    have hp : (s.setRecord i none).record j = some p := hp
    rw [State.record_setRecord] at hp
    split at hp
    · exact absurd hp (by simp)
    · exact ⟨p, hp, rfl⟩
  case counted =>
    have h := standingRecords_setRecord s i none
    have hrecords : (s.removeRecord i r).standingRecords = (s.setRecord i none).standingRecords := rfl
    have hstanding : (s.removeRecord i r).standingCount =
        if r.kind = .standing then s.standingCount - 1 else s.standingCount := rfl
    unfold State.StandingLaw
    rw [hrecords, hstanding]
    cases hk : r.kind <;> simp [hr, hk] at h ⊢ <;> omega

theorem tableLaw_created {s : State} (hs : s.TableLaw) {i : SlotId} {n : LockName} (hi : s.record i = none) (hz : n ≠ 0)
    (ha : s.Absent n) (st : StationId) (m : Mode) : (s.grantAtOnce i (s.newTransient n) st m).TableLaw := by
  obtain ⟨hj, hnames, hcount, hle⟩ := hs
  obtain ⟨q, hq⟩ : ∃ q, q = (s.newTransient n).setHolding st
      (some ⟨m, 1, s.classLease (s.newTransient n).attrs.leaseClass⟩) := ⟨_, rfl⟩
  have hlaw : (s.setRecord i (some q)).TableLaw := by
    refine ⟨hj.setRecord i fun p hp => ?_, ?_, ?_, hle⟩
    · obtain rfl := Option.some.inj hp
      exact hq ▸ justified_setHolding _ st _
    · have hname : q.name = n := by rw [hq]; rfl
      exact namesLaw_create hnames (hname ▸ hz) (hname ▸ ha)
    · have hk : q.kind ≠ .standing := by rw [hq]; simp [State.newTransient]
      rw [standingRecords_create hi, if_neg hk]
      exact hcount
  rw [hq] at hlaw
  exact hlaw

theorem tableLaw_defined {s : State} (hs : s.TableLaw) {i : SlotId} {n : LockName} (a : Attributes)
    (hi : s.record i = none) (hz : n ≠ 0) (ha : s.Absent n) (hc : s.standingCount < 48) :
    ((s.setRecord i (some (newStanding n a))).setStandingCount (s.standingCount + 1)).TableLaw := by
  obtain ⟨hj, hnames, hcount, -⟩ := hs
  refine ⟨?_, namesLaw_create (q := newStanding n a) hnames hz ha, ?_, Nat.succ_le_of_lt hc⟩
  · refine hj.setRecord i fun p hp => ?_
    obtain rfl := Option.some.inj hp
    exact .inl rfl
  · show s.standingCount + 1 = (s.setRecord i (some (newStanding n a))).standingRecords
    rw [standingRecords_create hi, hcount]
    rfl

theorem tableLaw_refitSlot (k : ClassId) (length : Byte) (u : State) (i : SlotId) (hu : u.TableLaw) :
    (u.refitSlot k length i).TableLaw := by
  unfold State.refitSlot
  split
  · exact hu
  · next r hr =>
    split
    · have hj := (hu.1 i r hr).of_sameModes (sameModes_refit r length) rfl Iff.rfl rfl
      exact tableLaw_setRecord hu hr rfl rfl hj
    · exact hu

theorem tableLaw_grantAtOnce {s : State} (hs : s.TableLaw) {i : SlotId} {r : Record} (hr : s.record i = some r)
    (st : StationId) (m : Mode) : (s.grantAtOnce i r st m).TableLaw := by
  have hset := tableLaw_setRecord (q := r.setHolding st (some ⟨m, 1, s.classLease r.attrs.leaseClass⟩)) hs hr rfl rfl
    (justified_setHolding r st _)
  exact hset

theorem tableLaw_work {row : Instr} {s t : State} (h : Work row s t) (hs : s.TableLaw) : t.TableLaw := by
  have hj := hs.1
  cases h with
  | nothing => exact hs
  | attached => exact hs
  | listed => exact hs
  | created m hi hz ha _ => exact tableLaw_created hs hi hz ha _ m
  | granted hr _ _ _ =>
    exact tableLaw_grantAtOnce hs hr _ _
  | queued hr _ _ _ _ _ => exact tableLaw_setRecord hs hr rfl rfl (.inr (.inr (.inl (by simp))))
  | reheld _ hr _ _ _ _ => exact tableLaw_setRecord hs hr rfl rfl (justified_setHolding _ _ _)
  | upgraded hr _ _ => exact tableLaw_setRecord hs hr rfl rfl (justified_setHolding _ _ _)
  | upgradeQueued hr _ _ _ _ _ => exact tableLaw_setRecord hs hr rfl rfl (.inr (.inr (.inl (by simp))))
  | released hr _ _ =>
    exact (sameNames_settle_dropHolding hr rfl rfl _).tableLaw hs (settle_justified_of_slots hj rfl)
  | downgraded hr _ _ => exact (sameNames_settle_setRecord hr (by rfl) (by rfl)).tableLaw hs (settle_justified_of_slots hj rfl)
  | untainted hr hh => exact tableLaw_setRecord hs hr (by rfl) (by rfl) (justified_of_holding (by exact hh))
  | cancelled =>
    refine (sameNames_endWait s _).tableLaw hs ?_
    unfold State.endWait
    split
    · exact hj
    · exact settle_justified_of_slots hj rfl
  | defined a hi hz ha hc => exact tableLaw_defined hs a hi hz ha hc
  | adopted a hr hk hc => exact tableLaw_adopted hs a hr hk hc
  | amended a hr _ =>
    refine (sameNames_storeAmended hr ?_ ?_).tableLaw hs (settle_justified_of_slots hj (State.queueNotices_slots _ _))
    · unfold State.amended
      split <;> rfl
    · unfold State.amended
      split <;> rfl
  | retired hr _ _ => exact tableLaw_retired hs hr
  | classSet k _ => exact foldl_holds (State.refitSlot k _) State.TableLaw (tableLaw_refitSlot k _) allSlots _ hs
  | prescalerSet => exact hs
  | runSet =>
    unfold State.setRunning
    split <;> exact hs
  | defaultsSet => exact hs

theorem walkEffect_justified (w : Walk) {s : State} (hj : s.EveryRecord Record.Justified) :
    (walkEffect w s).1.EveryRecord Record.Justified := by
  unfold walkEffect
  split
  · exact hj
  · split
    · exact hj
    · exact settle_justified_of_slots hj rfl

theorem tickTable_justified {s : State} (hj : s.EveryRecord Record.Justified) :
    s.tickTable.EveryRecord Record.Justified := by
  intro i r' hr'
  rw [State.record_tickTable] at hr'
  obtain ⟨r, hr, hafter⟩ := Option.bind_eq_some_iff.mp hr'
  exact afterTick_justified (hj i r hr) hafter

theorem State.record_reset (i : SlotId) : State.reset.record i = none := by simp [State.record, State.reset]

theorem tableLaw_reset : State.reset.TableLaw := by
  refine ⟨everyRecord_reset _, fun i r hr => absurd hr (by simp [State.record_reset]), ?_, Nat.zero_le _⟩
  have hnone : State.reset.standingRecords = 0 := by simp [State.standingRecords, State.record_reset]
  rw [hnone]
  rfl

/-- All work on the table keeps its laws. -/
theorem tableLaw_kept : KeptByWork State.TableLaw where
  congr {s t} h hs := by
    obtain ⟨⟨hslots, -, hcount⟩, -⟩ := h
    exact (sameNames_of_slots hslots hcount).tableLaw hs (hs.1.congr hslots)
  atReset := tableLaw_reset
  work := tableLaw_work
  walkEffect w s hs := (sameNames_walkEffect w s).tableLaw hs (walkEffect_justified w hs.1)
  tickTable s hs := (sameNames_tickTable s).tableLaw hs (tickTable_justified hs.1)

/-- Settles O55: each step's work keeps names and kinds, or makes or removes one record and counts it, and a removal is
followed by the retirement test. -/
theorem tableLawKept : Obligations.TableLawKept := fun _ _ hs h => tableLaw_kept.step hs h

end Sys2Proof.Machine
end

section
/-!
SUPPORT. R9 and R31: a record's new holders are the claim waiters its run grants, so a holding count moves with the records
held, and a commitment is moved from a wait to a holding and never made. With it, O56.
-/

namespace Sys2Proof.Machine

/-! ### Entries as the laws of queues read them -/

/-- The stations in a record's queue with their requests, from its head (R6). -/
def Record.entries (r : Record) : List (StationId × Request) := r.queue.map fun w => (w.station, w.request)

theorem Record.entries_map_fst (r : Record) : r.entries.map Prod.fst = r.line := by
  rw [Record.entries, Record.line, List.map_map]
  rfl

theorem Record.mem_entries {r : Record} {a : StationId} {q : Request} :
    (a, q) ∈ r.entries ↔ ∃ w ∈ r.queue, w.station = a ∧ w.request = q := by
  simp [Record.entries]

theorem Record.mem_line_of_mem_entries {r : Record} {e : StationId × Request} (h : e ∈ r.entries) : e.1 ∈ r.line := by
  rw [← r.entries_map_fst]
  exact List.mem_map_of_mem h

/-- No claim waiter holds the record (R6). -/
theorem Record.claimWaitersHoldNothing_iff (r : Record) :
    r.claimWaitersHoldNothing = true ↔ ∀ e ∈ r.entries, e.2 ≠ .upgrade → r.holding e.1 = none := by
  unfold Record.claimWaitersHoldNothing Record.entries
  rw [List.forall_mem_map]
  simp only [List.all_eq_true, Bool.or_eq_true, beq_iff_eq, Bool.not_eq_true', Record.holds_eq_false]
  exact forall_congr' fun w => imp_congr_right fun _ => or_iff_not_imp_left

theorem sublist_entries_of_queue {r q : Record} (h : q.queue.Sublist r.queue) : q.entries.Sublist r.entries := h.map _

/-- Entries and holders that only leave leave claim waiters that hold nothing. -/
theorem claimWaitersHoldNothing_of_subset {r q : Record} (h : r.claimWaitersHoldNothing = true)
    (he : q.entries ⊆ r.entries) (hh : ∀ a, q.holding a ≠ none → r.holding a ≠ none) :
    q.claimWaitersHoldNothing = true := by
  rw [Record.claimWaitersHoldNothing_iff] at h ⊢
  intro e hmem hreq
  by_contra hne
  exact hh e.1 hne (h e (he hmem) hreq)

theorem Record.shrunk_of_entries {r q : Record} (he : q.entries.Sublist r.entries)
    (hh : ∀ a, q.holding a ≠ none → r.holding a ≠ none) : r.Shrunk q := by
  refine ⟨?_, hh⟩
  rw [← q.entries_map_fst, ← r.entries_map_fst]
  exact he.map _

/-- The ticked record keeps a part of the entries (R55, R67). -/
theorem sublist_entries_ticked (r : Record) : r.ticked.entries.Sublist r.entries := by
  have hkept (l : List Waiter) :
      ((l.filterMap fun w => if (r.waiterEnd w).isSome then none
        else some { w with deadline := w.deadline.ticked }).map fun w => (w.station, w.request)).Sublist
      (l.map fun w => (w.station, w.request)) := by
    induction l with
    | nil => exact .slnil
    | cons w ws ih =>
      rw [List.filterMap_cons]
      split
      · exact ih.cons _
      · next v hv =>
        obtain ⟨-, rfl⟩ : _ ∧ _ = v := by simpa using hv
        exact ih.cons_cons _
  exact hkept r.queue

/-! ### Claim waits and commitments -/

/-- The station has a claim wait (R10). -/
def State.ClaimWaiting (s : State) (a : StationId) : Prop :=
  ∃ i, ∃ r ∈ s.record i, ∃ q, q ≠ .upgrade ∧ (a, q) ∈ r.entries

theorem State.ClaimWaiting.waiting {s : State} {a : StationId} (h : s.ClaimWaiting a) : s.Waiting a := by
  obtain ⟨i, r, hr, q, -, hmem⟩ := h
  obtain ⟨w, hw, hst, -⟩ := Record.mem_entries.mp hmem
  exact ⟨i, r, hr, w, hw, hst⟩

theorem State.hasClaimWait_iff {s : State} (h : s.OneWaitLaw) (a : StationId) :
    s.hasClaimWait a = true ↔ s.ClaimWaiting a := by
  unfold State.hasClaimWait
  constructor
  · intro hany
    obtain ⟨⟨i, r, w⟩, hwait, hreq⟩ := (Option.any_eq_true _ _).mp hany
    obtain ⟨hr, hw, hst⟩ := s.waitOf_spec a i r w hwait
    exact ⟨i, r, hr, w.request, by simpa using hreq, Record.mem_entries.mpr ⟨w, hw, hst, rfl⟩⟩
  · rintro ⟨i, r, hr, q, hq, hmem⟩
    obtain ⟨w, hw, hst, rfl⟩ := Record.mem_entries.mp hmem
    rw [(s.waitOf_eq_some h a i r w).mpr ⟨hr, hw, hst⟩]
    simpa using hq

theorem State.commitment_of_claimWaiting {s : State} (h : s.OneWaitLaw) {a : StationId} (hw : s.ClaimWaiting a) :
    s.commitment a = s.holdingCount a + 1 := by
  rw [State.commitment, if_pos ((State.hasClaimWait_iff h a).mpr hw)]

theorem State.commitment_of_not_claimWaiting {s : State} (h : s.OneWaitLaw) {a : StationId} (hw : ¬ s.ClaimWaiting a) :
    s.commitment a = s.holdingCount a := by
  rw [State.commitment, if_neg (mt (State.hasClaimWait_iff h a).mp hw), Nat.add_zero]

/-- A commitment grows only with a holding or with a claim wait. -/
theorem commitment_le {s t : State} (hs : s.OneWaitLaw) (ht : t.OneWaitLaw) {a : StationId}
    (hc : t.holdingCount a ≤ s.holdingCount a) (hw : t.ClaimWaiting a → s.ClaimWaiting a) :
    t.commitment a ≤ s.commitment a := by
  by_cases hwt : t.ClaimWaiting a
  · rw [State.commitment_of_claimWaiting ht hwt, State.commitment_of_claimWaiting hs (hw hwt)]
    omega
  · rw [State.commitment_of_not_claimWaiting ht hwt]
    exact hc.trans (Nat.le_add_right _ _)

/-! ### The number of records held -/

/-- The number of records a station holds, when one slot changes. -/
theorem recordsHeld_update {s t : State} {i : SlotId} (h : ∀ j, j ≠ i → t.record j = s.record j) (a : StationId) :
    t.recordsHeld a + (if (s.record i).any (·.holds a) = true then 1 else 0) =
      s.recordsHeld a + (if (t.record i).any (·.holds a) = true then 1 else 0) := by
  have hcount := countP_finRange_update (fun j => (s.record j).any (·.holds a)) (fun j => (t.record j).any (·.holds a)) i
    fun j hj => by rw [h j hj]
  exact hcount

theorem recordsHeld_setRecord (s : State) (i : SlotId) (o : Option Record) (a : StationId) :
    (s.setRecord i o).recordsHeld a + (if (s.record i).any (·.holds a) = true then 1 else 0) =
      s.recordsHeld a + (if o.any (·.holds a) = true then 1 else 0) := by
  have h := recordsHeld_update (fun j => s.record_setRecord_ne i j o) a
  rwa [s.record_setRecord_same] at h

theorem State.recordsHeld_congr {s t : State} (h : ∀ i, t.record i = s.record i) (a : StationId) :
    t.recordsHeld a = s.recordsHeld a := by
  unfold State.recordsHeld
  simp only [h]

theorem State.record_of_slots {s t : State} (h : t.slots = s.slots) (i : SlotId) : t.record i = s.record i := by
  rw [State.record, h]
  rfl

/-- The law is one of the slots and the holding counts. -/
theorem State.CountsLaw.congr {s t : State} (hs : s.CountsLaw) (hslots : t.slots = s.slots)
    (hcounts : ∀ a, t.holdingCount a = s.holdingCount a) : t.CountsLaw := by
  obtain ⟨hheld, hcommit, hone, hnothing⟩ := hs
  refine ⟨fun a => ?_, fun a => ?_, hone.congr hslots, hnothing.congr hslots⟩
  · rw [hcounts, State.recordsHeld_congr (State.record_of_slots hslots)]
    exact hheld a
  · have hwait : t.waitOf a = s.waitOf a := State.waitOf_congr s t hslots a
    unfold State.commitment State.hasClaimWait
    rw [hcounts, hwait]
    exact hcommit a

/-! ### Entries and holders that leave -/

/-- Entries leave the queue of a record and stations leave its holders, each with its holding count. -/
theorem countsLaw_shrunk {s t : State} (hs : s.CountsLaw) {i : SlotId} {r q : Record} (hr : s.record i = some r)
    (hslots : t.slots = (s.setRecord i (some q)).slots) (he : q.entries.Sublist r.entries)
    (hh : ∀ a, q.holding a ≠ none → r.holding a ≠ none)
    (hcounts : ∀ a, t.holdingCount a + (if r.holds a = true then 1 else 0) =
      s.holdingCount a + (if q.holds a = true then 1 else 0)) : t.CountsLaw := by
  obtain ⟨hheld, hcommit, hone, hnothing⟩ := hs
  have hrec := State.record_of_slots hslots
  have hrelieved : s.Relieved t := fun j p hp =>
    relieved_setRecord hr (Record.shrunk_of_entries he hh) j p ((hrec j).symm.trans hp)
  have hone' := hrelieved.oneWaitLaw hone
  refine ⟨fun a => ?held, fun a => ?commitments, hone', ?nothing⟩
  case held =>
    have hset := recordsHeld_setRecord s i (some q) a
    rw [hr, Option.any_some, Option.any_some, ← State.recordsHeld_congr hrec a] at hset
    have hc := hcounts a
    have hl := hheld a
    omega
  case commitments =>
    refine (commitment_le hone hone' ?_ ?_).trans (hcommit a)
    · have hc := hcounts a
      have hmono : q.holds a = true → r.holds a = true := by
        rw [q.holds_iff, r.holds_iff]
        exact hh a
      split_ifs at hc with hra hqa hqa
      · omega
      · omega
      · exact absurd (hmono hqa) hra
      · omega
    · rintro ⟨j, p, hp, req, hreq, hmem⟩
      have hp : t.record j = some p := hp
      rw [hrec, State.record_setRecord] at hp
      split at hp
      · next e =>
        obtain rfl := Option.some.inj hp
        exact ⟨j, r, e ▸ hr, req, hreq, he.subset hmem⟩
      · exact ⟨j, p, hp, req, hreq, hmem⟩
  case nothing =>
    refine State.EveryRecord.congr (s := s.setRecord i (some q)) (hnothing.setRecord i fun p hp => ?_) hslots
    obtain rfl := Option.some.inj hp
    exact claimWaitersHoldNothing_of_subset (hnothing i r hr) he.subset hh

/-- A record changed in neither its holders nor, but for entries that leave, its queue. -/
theorem countsLaw_setRecord {s : State} (hs : s.CountsLaw) {i : SlotId} {r q : Record} (hr : s.record i = some r)
    (he : q.entries.Sublist r.entries) (hh : ∀ a, q.holding a = none ↔ r.holding a = none) :
    (s.setRecord i (some q)).CountsLaw := by
  refine countsLaw_shrunk hs hr rfl he (fun a => mt (hh a).mpr) fun a => ?_
  have hsame : q.holds a = r.holds a := by
    rw [Bool.eq_iff_iff, q.holds_iff, r.holds_iff, Ne, Ne, hh a]
  rw [hsame]
  rfl

theorem setHolding_holders {r : Record} {a : StationId} {h g : Holding} (hh : r.holding a = some h) (b : StationId) :
    (r.setHolding a (some g)).holding b = none ↔ r.holding b = none := by
  rw [Record.holding_setHolding]
  split
  · next e => simp [e, hh]
  · rfl

/-- A holding that is removed leaves the count of its station (R9). -/
theorem countsLaw_dropHolding {s : State} (hs : s.CountsLaw) {i : SlotId} {r q : Record} {h : Holding} {a : StationId}
    (hr : s.record i = some r) (hh : r.holding a = some h) (hqueue : q.queue = r.queue) (hholders : q.holders = r.holders) :
    (s.dropHolding i q a).CountsLaw := by
  have hholding (b : StationId) : q.holding b = r.holding b := by rw [Record.holding, hholders]; rfl
  have hpos : 0 < s.holdingCount a := by
    have hset := recordsHeld_setRecord s i none a
    have hl := hs.1 a
    simp only [hr, Option.any_some, (r.holds_iff a).mpr (by simp [hh]), if_true, Option.any_none, Bool.false_eq_true,
      if_false] at hset
    omega
  refine countsLaw_shrunk (r := r) (q := q.setHolding a none) hs hr rfl ?_ (fun b hb => ?_) fun b => ?_
  · rw [Record.entries, Record.setHolding_queue, hqueue]
    exact .refl _
  · rw [Record.holding_setHolding] at hb
    split at hb
    · exact absurd rfl hb
    · rwa [← hholding]
  · have hcount : (s.dropHolding i q a).holdingCount b = if b = a then s.holdingCount a - 1 else s.holdingCount b :=
      State.holdingCount_setCount (s.setRecord i (some (q.setHolding a none))) a b (s.holdingCount a - 1)
    have hholds : (q.setHolding a none).holds b = if b = a then false else r.holds b := by
      unfold Record.holds
      rw [Record.holding_setHolding]
      split
      · rfl
      · rw [hholding]
    rw [hcount, hholds]
    by_cases hb : b = a
    · subst hb
      simp only [if_true, (r.holds_iff b).mpr (by simp [hh]), Bool.false_eq_true, if_false]
      omega
    · simp only [if_neg hb]

/-! ### The grant rule -/

/-- A run makes a holder of each claim waiter it grants, once, and of no other station (R37). -/
theorem GrantRun.holds {full : Option Nat} {r r' : Record} {b : List Waiter} (h : GrantRun full r b r')
    (hline : r.line.Nodup) (hnothing : r.claimWaitersHoldNothing = true) (a : StationId) :
    (if r'.holds a = true then 1 else 0) =
      (if r.holds a = true then 1 else 0) + b.countP fun w => decide (w.station = a ∧ w.request ≠ .upgrade) := by
  induction h with
  | stopEmpty _ _ => simp
  | stopHeld _ _ _ _ _ => simp
  | grant r w ws b r' hq hg hrun ih =>
    have hcons : r.line = w.station :: ws.map (·.station) := by rw [Record.line, hq]; rfl
    rw [hcons, List.nodup_cons] at hline
    rw [Record.claimWaitersHoldNothing_iff, Record.entries, hq, List.map_cons, List.forall_mem_cons] at hnothing
    obtain ⟨hhead, htail⟩ := hnothing
    have hholding (c : StationId) := Record.holding_setHolding r w.station c
      (grantedHolding full (r.holding w.station) w.request)
    rw [ih hline.2 ?nothing, List.countP_cons]
    case nothing =>
      rw [Record.claimWaitersHoldNothing_iff]
      intro e he hreq
      have hne : e.1 ≠ w.station := fun heq => by
        obtain ⟨v, hv, rfl⟩ := List.mem_map.mp he
        exact hline.1 (heq ▸ List.mem_map_of_mem hv)
      exact ((hholding e.1).trans (if_neg hne)).trans (htail e he hreq)
    have hnew : (if ({ r with
          queue := ws, holders := r.holders.set w.station (grantedHolding full (r.holding w.station) w.request) } :
          Record).holds a = true then 1 else 0) =
        (if r.holds a = true then 1 else 0) + if w.station = a ∧ w.request ≠ .upgrade then 1 else 0 := by
      have ha : ({ r with
          queue := ws, holders := r.holders.set w.station (grantedHolding full (r.holding w.station) w.request) } :
          Record).holds a = (if a = w.station then grantedHolding full (r.holding w.station) w.request
            else r.holding a).isSome := congrArg Option.isSome (hholding a)
      rw [ha]
      by_cases hst : a = w.station
      · subst hst
        cases hreq : w.request with
        | shared => simp [grantedHolding, Record.holds, hhead (by simp [hreq])]
        | exclusive => simp [grantedHolding, Record.holds, hhead (by simp [hreq])]
        | upgrade =>
          simp [grantedHolding, Record.holds]
          rfl
      · simp [hst, Ne.symm hst, Record.holds]
        rfl
    rw [hnew]
    simp only [decide_eq_true_eq]
    omega

theorem GrantRun.entries {full : Option Nat} {r r' : Record} {b : List Waiter} (h : GrantRun full r b r') :
    r.entries = (b.map fun w => (w.station, w.request)) ++ r'.entries := by
  rw [Record.entries, h.queue, List.map_append]
  rfl

/-- After a run no claim waiter holds the record, where none did before (R6). -/
theorem GrantRun.claimWaitersHoldNothing {full : Option Nat} {r r' : Record} {b : List Waiter} (h : GrantRun full r b r')
    (hline : r.line.Nodup) (hnothing : r.claimWaitersHoldNothing = true) : r'.claimWaitersHoldNothing = true := by
  rw [Record.claimWaitersHoldNothing_iff] at hnothing ⊢
  intro e he hreq
  have hout : ∀ w ∈ b, w.station ≠ e.1 := by
    rw [h.line, List.nodup_append] at hline
    exact fun w hw => hline.2.2 _ (List.mem_map_of_mem hw) _ (Record.mem_line_of_mem_entries he)
  rw [h.holding_of_not_mem e.1 hout]
  exact hnothing e (h.entries ▸ List.mem_append_right _ he) hreq

/-- The waits that a run grants have ended (R37). -/
theorem waiterEntries_settle_le {s : State} {i : SlotId} {r : Record} (hr : s.record i = some r) (a : StationId) :
    (s.settle i).waiterEntries a + ((settleRun s r).2.map (·.station)).count a ≤ s.waiterEntries a := by
  refine State.waiterEntries_add_le (i := i) ?_ fun j hj => s.record_settle_ne i j hj
  have hleft : (s.settle i).entriesAt a i ≤ (settleRun s r).1.line.count a := by
    cases hr' : (s.settle i).record i with
    | none => simp [State.entriesAt_none hr']
    | some r' => rw [State.entriesAt_some hr', s.record_settle_mem i r r' hr hr']
  rw [State.entriesAt_some hr, (settleRun_spec s r).line, List.count_append]
  omega

theorem relieved_settle_self (s : State) (i : SlotId) : s.Relieved (s.settle i) := by
  cases hr : s.record i with
  | none =>
    rw [s.settle_none i hr]
    exact State.relieved_of_slots rfl
  | some r => exact relieved_settle hr hr (fun _ _ => rfl) (.refl r)

/-- A claim wait after settling was one before, and of another station than those the run granted a claim. -/
theorem claimWaiting_of_settle {s : State} {i : SlotId} {r : Record} (hr : s.record i = some r) (hone : s.OneWaitLaw)
    {a : StationId} (h : (s.settle i).ClaimWaiting a) :
    s.ClaimWaiting a ∧ (settleRun s r).2.countP (fun w => decide (w.station = a ∧ w.request ≠ .upgrade)) = 0 := by
  constructor
  · obtain ⟨j, p, hp, q, hq, hmem⟩ := h
    by_cases hj : j = i
    · subst hj
      have hrun := s.record_settle_mem j r p hr hp
      subst hrun
      exact ⟨j, r, hr, q, hq, (settleRun_spec s r).entries ▸ List.mem_append_right _ hmem⟩
    · exact ⟨j, p, (s.record_settle_ne i j hj).symm.trans hp, q, hq, hmem⟩
  · have hle := waiterEntries_settle_le hr a
    have hpos := ((s.settle i).waiterEntries_pos_iff a).mpr h.waiting
    have hbound := hone a
    have hcount : ((settleRun s r).2.map (·.station)).count a = 0 := by omega
    rw [List.count_eq_zero] at hcount
    rw [List.countP_eq_zero]
    intro w hw hdec
    exact hcount (List.mem_map.mpr ⟨w, hw, (of_decide_eq_true hdec).1⟩)

/-- A run grants a station one claim at most, and that station was waiting for it. -/
theorem granted_claims_le {s : State} {i : SlotId} {r : Record} (hr : s.record i = some r) (hone : s.OneWaitLaw)
    (a : StationId) :
    (settleRun s r).2.countP (fun w => decide (w.station = a ∧ w.request ≠ .upgrade)) ≤ 1
      ∧ (0 < (settleRun s r).2.countP (fun w => decide (w.station = a ∧ w.request ≠ .upgrade)) → s.ClaimWaiting a) := by
  constructor
  · have hle := waiterEntries_settle_le hr a
    have hbound := hone a
    have hcount : (settleRun s r).2.countP (fun w => decide (w.station = a ∧ w.request ≠ .upgrade)) ≤
        ((settleRun s r).2.map (·.station)).count a := by
      rw [List.count, List.countP_map]
      exact List.countP_mono_left fun w _ hdec => beq_iff_eq.mpr (of_decide_eq_true hdec).1
    omega
  · intro hpos
    obtain ⟨w, hw, hdec⟩ := List.countP_pos_iff.mp hpos
    obtain ⟨hst, hreq⟩ := of_decide_eq_true hdec
    refine ⟨i, r, hr, w.request, hreq, ?_⟩
    rw [(settleRun_spec s r).entries]
    exact List.mem_append_left _ (List.mem_map.mpr ⟨w, hw, by rw [hst]⟩)

/-- Settling keeps the law: what the run adds to a holding count it takes from a wait, and a record that retires is held by
none (R17, R37). -/
theorem settle_countsLaw {s : State} (hs : s.CountsLaw) (i : SlotId) : (s.settle i).CountsLaw := by
  cases hr : s.record i with
  | none =>
    rw [s.settle_none i hr]
    exact hs
  | some r =>
    obtain ⟨hheld, hcommit, hone, hnothing⟩ := hs
    have hrun := settleRun_spec s r
    have hone' := (relieved_settle_self s i).oneWaitLaw hone
    refine ⟨fun a => ?held, fun a => ?commitments, hone', ?nothing⟩
    case held =>
      have hgranted := hrun.holds (hone.nodup_line hr) (hnothing i r hr) a
      have hafter : (if ((s.settle i).record i).any (·.holds a) = true then 1 else 0) =
          if (settleRun s r).1.holds a = true then 1 else 0 := by
        by_cases ht : (settleRun s r).1.ToRetire
        · have hnone : (settleRun s r).1.holds a = false := (Record.holds_eq_false _ a).mpr (ht.2.1 a)
          rw [(s.record_settle i r hr).1 ht, hnone]
          rfl
        · rw [(s.record_settle i r hr).2 ht]
          rfl
      have hrecords := recordsHeld_update (fun j => s.record_settle_ne i j) a
      rw [hafter, hr, Option.any_some] at hrecords
      have hl := hheld a
      have hc := s.holdingCount_settle i r hr a
      omega
    case commitments =>
      obtain ⟨hle, hpos⟩ := granted_claims_le hr hone a
      have hc := s.holdingCount_settle i r hr a
      have hbound := hcommit a
      by_cases hw : (s.settle i).ClaimWaiting a
      · obtain ⟨hbefore, hzero⟩ := claimWaiting_of_settle hr hone hw
        rw [State.commitment_of_claimWaiting hone' hw, hc, hzero]
        rw [State.commitment_of_claimWaiting hone hbefore] at hbound
        exact hbound
      · rw [State.commitment_of_not_claimWaiting hone' hw, hc]
        by_cases hbefore : s.ClaimWaiting a
        · rw [State.commitment_of_claimWaiting hone hbefore] at hbound
          omega
        · rw [State.commitment_of_not_claimWaiting hone hbefore] at hbound
          have hzero := Nat.eq_zero_of_not_pos (mt hpos hbefore)
          omega
    case nothing =>
      intro j p hp
      by_cases hj : j = i
      · subst hj
        rw [s.record_settle_mem j r p hr hp]
        exact hrun.claimWaitersHoldNothing (hone.nodup_line hr) (hnothing j r hr)
      · rw [s.record_settle_ne i j hj] at hp
        exact hnothing j p hp

/-! ### New holdings and new waits -/

/-- A claim granted at once makes a holding that the commitment had room for (R31, R32). -/
theorem countsLaw_grantAtOnce {s : State} (hs : s.CountsLaw) {i : SlotId} {r : Record} (st : StationId) (m : Mode)
    (hr : s.record i = some r ∧ r.holding st = none ∨ s.record i = none ∧ r.NoHolder) (hq : r.queue = [])
    (hc : s.commitment st < 16) : (s.grantAtOnce i r st m).CountsLaw := by
  obtain ⟨hheld, hcommit, hone, hnothing⟩ := hs
  obtain ⟨q, hqdef⟩ : ∃ q, q = r.setHolding st (some ⟨m, 1, s.classLease r.attrs.leaseClass⟩) := ⟨_, rfl⟩
  have hqueue : q.queue = [] := by rw [hqdef]; exact hq
  have hrec (j : SlotId) : (s.grantAtOnce i r st m).record j = (s.setRecord i (some q)).record j := by rw [hqdef]; rfl
  have hcount (a : StationId) : (s.grantAtOnce i r st m).holdingCount a =
      if a = st then s.holdingCount st + 1 else s.holdingCount a :=
    State.holdingCount_setCount (s.setRecord i _) st a (s.holdingCount st + 1)
  have hone' : (s.grantAtOnce i r st m).OneWaitLaw := by
    have hrelieved : s.Relieved (s.setRecord i (some q)) := relieved_setRecord_of_queue i fun p hp => by
      obtain rfl := Option.some.inj hp
      exact hqueue
    exact (hrelieved.oneWaitLaw hone).congr (by rw [hqdef]; rfl)
  have hwaits (a : StationId) (h : (s.grantAtOnce i r st m).ClaimWaiting a) : s.ClaimWaiting a := by
    obtain ⟨j, p, hp, req, hreq, hmem⟩ := h
    have hp : (s.grantAtOnce i r st m).record j = some p := hp
    rw [hrec, State.record_setRecord] at hp
    split at hp
    · obtain rfl := Option.some.inj hp
      simp [Record.entries, hqueue] at hmem
    · exact ⟨j, p, hp, req, hreq, hmem⟩
  refine ⟨fun a => ?held, fun a => ?commitments, hone', ?nothing⟩
  case held =>
    have hset := recordsHeld_setRecord s i (some q) a
    rw [← State.recordsHeld_congr hrec a, Option.any_some] at hset
    have hbefore : (s.record i).any (·.holds a) = if a = st then false else r.holds a := by
      rcases hr with ⟨hr, hh⟩ | ⟨hr, hno⟩
      · rw [hr, Option.any_some]
        split
        · next e => exact (r.holds_eq_false a).mpr (e ▸ hh)
        · rfl
      · rw [hr, (r.holds_eq_false a).mpr (hno a)]
        simp
    have hafter : q.holds a = if a = st then true else r.holds a := by
      rw [hqdef, Record.holds, Record.holding_setHolding]
      split <;> rfl
    rw [hbefore, hafter] at hset
    have hl := hheld a
    rw [hcount]
    by_cases ha : a = st
    · subst ha
      simp only [if_true, Bool.false_eq_true, if_false] at hset ⊢
      omega
    · simp only [if_neg ha] at hset ⊢
      omega
  case commitments =>
    by_cases ha : a = st
    · subst ha
      by_cases hw : (s.grantAtOnce i r a m).ClaimWaiting a
      · rw [State.commitment_of_claimWaiting hone (hwaits a hw)] at hc
        rw [State.commitment_of_claimWaiting hone' hw, hcount, if_pos rfl]
        omega
      · have hle : s.holdingCount a ≤ s.commitment a := Nat.le_add_right _ _
        rw [State.commitment_of_not_claimWaiting hone' hw, hcount, if_pos rfl]
        omega
    · exact (commitment_le hone hone' (by rw [hcount, if_neg ha]) (hwaits a)).trans (hcommit a)
  case nothing =>
    refine State.EveryRecord.congr (s := s.setRecord i (some q)) (hnothing.setRecord i fun p hp => ?_) (by rw [hqdef]; rfl)
    obtain rfl := Option.some.inj hp
    rw [Record.claimWaitersHoldNothing_iff]
    simp [Record.entries, hqueue]

/-- A wait is entered where the station waits for nothing, and, of a claim, where its commitment has room (R31, R51, R53). -/
theorem countsLaw_enter {s : State} (hs : s.CountsLaw) {i : SlotId} {r q : Record} {st : StationId} {req : Request}
    (hr : s.record i = some r) (hwait : ¬ s.Waiting st) (hentries : q.entries.Perm ((st, req) :: r.entries))
    (hh : q.holders = r.holders) (hclaim : req ≠ .upgrade → r.holding st = none ∧ s.commitment st < 16) :
    (s.setRecord i (some q)).CountsLaw := by
  obtain ⟨hheld, hcommit, hone, hnothing⟩ := hs
  have hholding (a : StationId) : q.holding a = r.holding a := by rw [Record.holding, hh]; rfl
  have hone' : (s.setRecord i (some q)).OneWaitLaw := by
    refine hone.enter hr hwait ?_
    rw [← q.entries_map_fst, ← r.entries_map_fst]
    exact hentries.map Prod.fst
  have hwaits (a : StationId) (h : (s.setRecord i (some q)).ClaimWaiting a) :
      s.ClaimWaiting a ∨ (a = st ∧ req ≠ .upgrade) := by
    obtain ⟨j, p, hp, req', hreq', hmem⟩ := h
    have hp : (s.setRecord i (some q)).record j = some p := hp
    rw [State.record_setRecord] at hp
    split at hp
    · obtain rfl := Option.some.inj hp
      rcases List.mem_cons.mp (hentries.subset hmem) with hnew | hold
      · obtain ⟨rfl, rfl⟩ := Prod.mk.inj hnew
        exact .inr ⟨rfl, hreq'⟩
      · exact .inl ⟨i, r, hr, req', hreq', hold⟩
    · exact .inl ⟨j, p, hp, req', hreq', hmem⟩
  refine ⟨fun a => ?held, fun a => ?commitments, hone', ?nothing⟩
  case held =>
    have hset := recordsHeld_setRecord s i (some q) a
    have hsame : q.holds a = r.holds a := by rw [Record.holds, hholding]; rfl
    rw [hr, Option.any_some, Option.any_some, hsame] at hset
    exact (hheld a).trans (by omega)
  case commitments =>
    have hle : s.holdingCount a ≤ s.commitment a := Nat.le_add_right _ _
    have hcount : (s.setRecord i (some q)).holdingCount a = s.holdingCount a := rfl
    have hbound := hcommit a
    by_cases hw : (s.setRecord i (some q)).ClaimWaiting a
    · rw [State.commitment_of_claimWaiting hone' hw, hcount]
      rcases hwaits a hw with hold | ⟨rfl, hreq⟩
      · rw [State.commitment_of_claimWaiting hone hold] at hbound
        exact hbound
      · have hroom := (hclaim hreq).2
        omega
    · rw [State.commitment_of_not_claimWaiting hone' hw, hcount]
      omega
  case nothing =>
    refine hnothing.setRecord i fun p hp => ?_
    obtain rfl := Option.some.inj hp
    have hold := (r.claimWaitersHoldNothing_iff).mp (hnothing i r hr)
    rw [Record.claimWaitersHoldNothing_iff]
    intro e he hreq
    rw [hholding]
    rcases List.mem_cons.mp (hentries.subset he) with rfl | he
    · exact (hclaim hreq).1
    · exact hold e he hreq

/-! ### Every step -/

theorem storeAmended_countsLaw {s : State} (hs : s.CountsLaw) {i : SlotId} {r q : Record} (hr : s.record i = some r)
    (hqueue : q.queue = r.queue) (hh : ∀ a, q.holding a = none ↔ r.holding a = none) : (s.storeAmended i q).CountsLaw := by
  have hsub : (q.withdrawOutside q.attrs).entries.Sublist r.entries :=
    sublist_entries_of_queue (hqueue ▸ List.filter_sublist)
  have hset := countsLaw_setRecord (q := q.withdrawOutside q.attrs) hs hr hsub hh
  refine settle_countsLaw (hset.congr (State.queueNotices_slots _ _) fun a => ?_) i
  rw [State.holdingCount, State.queueNotices_holdingCounts]
  rfl

theorem mapHoldings_holders (r : Record) {f : StationId → Holding → Option Holding} (hf : ∀ a h, f a h ≠ none)
    (a : StationId) : (r.mapHoldings f).holding a = none ↔ r.holding a = none := by
  rw [Record.holding_mapHoldings, Option.bind_eq_none_iff]
  constructor
  · intro h
    by_contra hne
    obtain ⟨g, hg⟩ := Option.ne_none_iff_exists'.mp hne
    exact hf a g (h g hg)
  · intro h g hg
    simp [h] at hg

theorem refit_holders (r : Record) (length : Byte) (a : StationId) :
    (r.refit length).holding a = none ↔ r.holding a = none :=
  mapHoldings_holders r (fun _ _ => Option.some_ne_none _) a

theorem amended_holders (s : State) (r : Record) (b : Attributes) (a : StationId) :
    (s.amended r b).holding a = none ↔ r.holding a = none := by
  unfold State.amended
  split
  · rfl
  · exact refit_holders { r with attrs := b } _ a

theorem amended_queue (s : State) (r : Record) (b : Attributes) : (s.amended r b).queue = r.queue := by
  unfold State.amended
  split <;> rfl

theorem endWait_countsLaw {s : State} (hs : s.CountsLaw) (st : StationId) : (s.endWait st).CountsLaw := by
  unfold State.endWait
  split
  · exact hs
  · next i r w hw =>
    have hr := (s.waitOf_spec st i r w hw).1
    have hsub : (r.dequeue st).entries.Sublist r.entries := sublist_entries_of_queue List.filter_sublist
    exact settle_countsLaw (countsLaw_setRecord hs hr hsub fun _ => Iff.rfl) i

theorem countsLaw_refitSlot (k : ClassId) (length : Byte) (u : State) (i : SlotId) (hu : u.CountsLaw) :
    (u.refitSlot k length i).CountsLaw := by
  unfold State.refitSlot
  split
  · exact hu
  · next r hr =>
    split
    · exact countsLaw_setRecord hu hr (.refl _) (refit_holders r length)
    · exact hu

theorem countsLaw_retired {s : State} (hs : s.CountsLaw) {i : SlotId} {r : Record} (hr : s.record i = some r)
    (hno : r.NoHolder) : (s.removeRecord i r).CountsLaw := by
  obtain ⟨hheld, hcommit, hone, hnothing⟩ := hs
  have hrec (j : SlotId) : (s.removeRecord i r).record j = (s.setRecord i none).record j := rfl
  have hrelieved : s.Relieved (s.removeRecord i r) := relieved_setRecord_of_queue i fun _ hp => absurd hp (by simp)
  have hone' := hrelieved.oneWaitLaw hone
  refine ⟨fun a => ?held, fun a => ?commitments, hone', ?nothing⟩
  case held =>
    have hset := recordsHeld_setRecord s i none a
    rw [hr, Option.any_some, (r.holds_eq_false a).mpr (hno a), ← State.recordsHeld_congr hrec a] at hset
    exact (hheld a).trans hset.symm
  case commitments =>
    refine (commitment_le hone hone' (le_refl (s.holdingCount a)) ?_).trans (hcommit a)
    rintro ⟨j, p, hp, req, hreq, hmem⟩
    have hp : (s.removeRecord i r).record j = some p := hp
    rw [hrec, State.record_setRecord] at hp
    split at hp
    · exact absurd hp (by simp)
    · exact ⟨j, p, hp, req, hreq, hmem⟩
  case nothing =>
    exact State.EveryRecord.congr (s := s.setRecord i none) (hnothing.setRecord i fun _ hp => absurd hp (by simp)) rfl

/-- A new record without holders and waiters. -/
theorem countsLaw_defined {s : State} (hs : s.CountsLaw) {i : SlotId} (hi : s.record i = none) (n : LockName)
    (b : Attributes) : (s.setRecord i (some (newStanding n b))).CountsLaw := by
  obtain ⟨hheld, hcommit, hone, hnothing⟩ := hs
  have hnone (a : StationId) : (newStanding n b).holding a = none := by simp [newStanding, Record.holding]
  have hrelieved : s.Relieved (s.setRecord i (some (newStanding n b))) :=
    relieved_setRecord_of_queue i fun p hp => by obtain rfl := Option.some.inj hp; rfl
  have hone' := hrelieved.oneWaitLaw hone
  refine ⟨fun a => ?held, fun a => ?commitments, hone', ?nothing⟩
  case held =>
    have hset := recordsHeld_setRecord s i (some (newStanding n b)) a
    rw [hi, Option.any_some, (Record.holds_eq_false _ a).mpr (hnone a)] at hset
    exact (hheld a).trans hset.symm
  case commitments =>
    refine (commitment_le hone hone' (le_refl (s.holdingCount a)) ?_).trans (hcommit a)
    rintro ⟨j, p, hp, req, hreq, hmem⟩
    have hp : (s.setRecord i (some (newStanding n b))).record j = some p := hp
    rw [State.record_setRecord] at hp
    split at hp
    · obtain rfl := Option.some.inj hp
      exact absurd hmem (by simp [Record.entries, newStanding])
    · exact ⟨j, p, hp, req, hreq, hmem⟩
  case nothing =>
    refine hnothing.setRecord i fun p hp => ?_
    obtain rfl := Option.some.inj hp
    rfl

theorem countsLaw_work {row : Instr} {s t : State} (h : Work row s t) (hs : s.CountsLaw) : t.CountsLaw := by
  cases h with
  | nothing => exact hs
  | attached => exact hs
  | listed => exact hs
  | created m hi _ _ hc =>
    refine countsLaw_grantAtOnce hs _ m (.inr ⟨hi, fun a => ?_⟩) rfl hc
    simp [State.newTransient, Record.holding]
  | granted hr hh hc hnow => exact countsLaw_grantAtOnce hs _ _ (.inl ⟨hr, hh⟩) hnow.1 hc
  | @queued _ _ _ _ m _ hr hh hc _ _ hw =>
    refine countsLaw_enter (req := Request.ofMode m) hs hr (length_lt_of_waitRefusal hw).1 ?_ rfl fun _ => ⟨hh, hc⟩
    rw [Record.entries, List.map_append]
    exact List.perm_append_singleton _ _
  | reheld _ hr hh _ _ _ => exact countsLaw_setRecord hs hr (.refl _) (setHolding_holders hh)
  | upgraded hr hh _ => exact countsLaw_setRecord hs hr (.refl _) (setHolding_holders hh)
  | upgradeQueued hr _ _ _ _ hw =>
    exact countsLaw_enter (req := .upgrade) hs hr (length_lt_of_waitRefusal hw).1 (.refl _) rfl fun h => absurd rfl h
  | released hr hh _ => exact settle_countsLaw (countsLaw_dropHolding hs hr hh rfl rfl) _
  | downgraded hr hh _ =>
    refine settle_countsLaw ?_ _
    exact countsLaw_setRecord hs hr (.refl _) (setHolding_holders hh)
  | untainted hr _ => exact countsLaw_setRecord hs hr (.refl _) fun _ => Iff.rfl
  | cancelled => exact endWait_countsLaw hs _
  | defined a hi _ _ _ => exact (countsLaw_defined hs hi _ a).congr rfl fun _ => rfl
  | @adopted _ _ _ r a hr _ _ =>
    have hcounted : (s.setStandingCount (s.standingCount + 1)).CountsLaw := hs.congr rfl fun _ => rfl
    exact storeAmended_countsLaw hcounted hr rfl (refit_holders { r with kind := .standing, attrs := a } _)
  | amended a hr _ => exact storeAmended_countsLaw hs hr (amended_queue s _ a) (amended_holders s _ a)
  | retired hr hno _ => exact countsLaw_retired hs hr hno
  | classSet k _ =>
    exact foldl_holds (State.refitSlot k _) State.CountsLaw (countsLaw_refitSlot k _) allSlots _
      (hs.congr rfl fun _ => rfl)
  | prescalerSet => exact hs
  | runSet =>
    unfold State.setRunning
    split <;> exact hs
  | defaultsSet => exact hs

theorem walkEffect_countsLaw (w : Walk) {s : State} (hs : s.CountsLaw) : (walkEffect w s).1.CountsLaw := by
  unfold walkEffect
  split
  · exact hs
  · next r hr =>
    split
    · exact hs
    · next h hh =>
      dsimp only
      refine settle_countsLaw (countsLaw_dropHolding hs hr hh ?_ ?_) _
      · split <;> rfl
      · split <;> rfl

/-- A holding that expires leaves the record and the count of its station (R81). -/
theorem tickChanged_countsLaw {s : State} (hs : s.CountsLaw) {i : SlotId} {r : Record} (hr : s.record i = some r) :
    (tickChanged s i r).CountsLaw := by
  have hcount (a : StationId) :
      (tickChanged s i r).holdingCount a = s.holdingCount a - if r.Expiring a then 1 else 0 := by
    unfold tickChanged
    rw [State.holdingCount, State.queueNotices_holdingCounts]
    have h := State.lowerExpired_holdingCount ((s.queueNotices (r.holdingNotices
      (s.leaseClass r.attrs.leaseClass).warn)).setRecord i (some r.ticked)) r a
    rw [State.holdingCount_setRecord, State.holdingCount, State.holdingCount, State.queueNotices_holdingCounts] at h
    exact h
  have hholds (a : StationId) : r.ticked.holds a = (r.holds a && !decide (r.Expiring a)) := by
    have hex : decide (r.Expiring a) = r.expiresAt a := by
      rw [Bool.eq_iff_iff, decide_eq_true_iff, r.expiresAt_iff]
    rw [hex]
    unfold Record.holds Record.expiresAt
    rw [Record.holding_ticked]
    cases r.holding a with
    | none => rfl
    | some h => by_cases he : h.expires = true <;> simp [Holding.ticked, he]
  have hheld (a : StationId) (ha : r.Expiring a) : r.holds a = true ∧ 0 < s.holdingCount a := by
    obtain ⟨h, hh, -⟩ := ha
    have hholder : r.holds a = true := (r.holds_iff a).mpr (by rw [hh]; exact Option.some_ne_none h)
    have hset := recordsHeld_setRecord s i none a
    have hl := hs.1 a
    simp only [hr, Option.any_some, hholder, if_true, Option.any_none, Bool.false_eq_true, if_false] at hset
    exact ⟨hholder, by omega⟩
  refine countsLaw_shrunk hs hr (tickChanged_slots s i r) (sublist_entries_ticked r) (shrunk_ticked r).2 fun a => ?_
  rw [hcount, hholds]
  by_cases ha : r.Expiring a
  · obtain ⟨hholder, hpos⟩ := hheld a ha
    simp only [hholder, ha, if_true, decide_true, Bool.not_true, Bool.and_false, Bool.false_eq_true, if_false]
    omega
  · simp [ha]

theorem tickTable_countsLaw {s : State} (hs : s.CountsLaw) : s.tickTable.CountsLaw := by
  refine foldl_holds State.tickSlot State.CountsLaw (fun u i hu => ?_) allSlots s hs
  cases hr : u.record i with
  | none =>
    rw [u.tickSlot_none i hr]
    exact hu
  | some r =>
    rw [u.tickSlot_some i r hr]
    split
    · exact settle_countsLaw (tickChanged_countsLaw hu hr) i
    · exact tickChanged_countsLaw hu hr

theorem countsLaw_reset : State.reset.CountsLaw := by
  have hone := noCycleLaw_reset.1
  have hnot (a : StationId) : ¬ State.reset.ClaimWaiting a := by
    rintro ⟨i, r, hr, -⟩
    rw [State.record_reset] at hr
    exact absurd hr (by simp)
  have hcount (a : StationId) : State.reset.holdingCount a = 0 := by simp [State.holdingCount, State.reset]
  refine ⟨fun a => ?_, fun a => ?_, hone, everyRecord_reset _⟩
  · rw [hcount]
    simp [State.recordsHeld, State.record_reset]
  · rw [State.commitment_of_not_claimWaiting hone (hnot a), hcount]
    omega

/-- All work on the table keeps R9 and R31. -/
theorem countsLaw_kept : KeptByWork State.CountsLaw where
  congr {s t} h hs := by
    obtain ⟨⟨hslots, hcounts, -⟩, -⟩ := h
    exact hs.congr hslots fun a => by rw [State.holdingCount, hcounts]; rfl
  atReset := countsLaw_reset
  work := countsLaw_work
  walkEffect w _ hs := walkEffect_countsLaw w hs
  tickTable _ hs := tickTable_countsLaw hs

/-- Settles O56: each step's work removes holdings and entries with their counts, adds one where the commitment has room, or
moves one from a wait to a holding. -/
theorem holdingCountsKept : Obligations.HoldingCountsKept := fun _ _ hs h => countsLaw_kept.step hs h

end Sys2Proof.Machine
end

section
/-!
SUPPORT. What all work can make of one record: a chain of single changes, each with what the checks of its command give it. A
law of a single record that each of these changes keeps is kept by every step; so are depths, deadlines, leases and the
exclusive holding that stands alone. With it, O59.
-/

namespace Sys2Proof.Machine

/-! ### The changes of one record -/

/-- The lengths of the lease classes (R74). -/
def State.lengths (s : State) (k : ClassId) : Byte := (s.leaseClass k).length

/-- One change of a record, with the lengths of the lease classes at which it loads, in a turn of the given row, or in a walk or a
tick (none): only a CLAIM or an UPGRADE of a station gives it a place, and only an AMEND gives a standing record new
attributes. -/
inductive Record.Change (length : ClassId → Byte) (row : Option Instr) : Record → Record → Prop
  | granted (r : Record) (a : StationId) (m : Mode) : row = some (.claim a) → r.GrantableNow m →
      Change length row r (r.setHolding a (some ⟨m, 1, fullLease (length r.attrs.leaseClass)⟩))
  | queued (r : Record) (a : StationId) (m : Mode) (limit : Byte) : row = some (.claim a) → limit ≠ 0 →
      Change length row r { r with queue := r.queue ++ [⟨a, Request.ofMode m, Deadline.ofLimit limit⟩] }
  | upgradeQueued (r : Record) (a : StationId) (limit : Byte) : row = some (.upgrade a) → limit ≠ 0 →
      Change length row r { r with queue := ⟨a, .upgrade, Deadline.ofLimit limit⟩ :: r.queue }
  | reheld (r : Record) (a : StationId) (h g : Holding) : r.holding a = some h → g.mode = h.mode →
      (1 ≤ h.depth → h.depth ≤ 15 → 1 ≤ g.depth ∧ g.depth ≤ 15) →
      g.lease = h.lease ∨ g.lease = fullLease (length r.attrs.leaseClass) →
      Change length row r (r.setHolding a (some g))
  | upgraded (r : Record) (a : StationId) (h : Holding) : r.holding a = some h → r.OnlyHolder a →
      Change length row r (r.setHolding a (some ⟨.exclusive, h.depth, fullLease (length r.attrs.leaseClass)⟩))
  | downgraded (r : Record) (a : StationId) (h : Holding) : r.holding a = some h →
      Change length row r (r.setHolding a (some { h with mode := .shared }))
  | dropped (r : Record) (a : StationId) (taint : Option StationId) :
      Change length row r (({ r with taint := taint } : Record).setHolding a none)
  | untainted (r : Record) : Change length row r { r with taint := none }
  | left (r : Record) (q : List Waiter) : q.Sublist r.queue → Change length row r { r with queue := q }
  | refitted (r : Record) : Change length row r (r.refit (length r.attrs.leaseClass))
  | adopted (r : Record) (b : Attributes) : r.kind = .transient →
      Change length row r (({ r with kind := .standing, attrs := b } : Record).refit (length b.leaseClass))
  | amended (r : Record) (b : Attributes) : (∃ st, row = some (.amend st)) → r.attrs.leaseClass = b.leaseClass →
      Change length row r { r with attrs := b }
  | reclassed (r : Record) (b : Attributes) : (∃ st, row = some (.amend st)) →
      Change length row r (({ r with attrs := b } : Record).refit (length b.leaseClass))
  | ticked (r : Record) : Change length row r r.ticked
  | run (r r' : Record) (batch : List Waiter) : GrantRun (fullLease (length r.attrs.leaseClass)) r batch r' →
      Change length row r r'

/-- Each record of a state is a record of another, changed. -/
def State.Changed (length : ClassId → Byte) (row : Option Instr) (s t : State) : Prop :=
  ∀ i, ∀ r' ∈ t.record i, ∃ r ∈ s.record i, Relation.ReflTransGen (Record.Change length row) r r'

/-- A record as a command creates it: without holders, waiters and taint (R13, R14). -/
def Record.Fresh (r : Record) : Prop := r.NoHolder ∧ r.queue = [] ∧ r.taint = none

/-- The state is another, in which a free slot may have been given a fresh record. -/
def State.Provided (s u : State) : Prop :=
  u = s ∨ ∃ i r, s.record i = none ∧ r.Fresh ∧ u = s.setRecord i (some r)

section Changed

variable {length : ClassId → Byte} {row : Option Instr} {s t u : State}

theorem State.Changed.of_slots (h : t.slots = s.slots) : s.Changed length row t := fun i r' hr' =>
  ⟨r', (State.record_of_slots h i).symm.trans hr', .refl⟩

theorem State.Changed.refl (s : State) : s.Changed length row s := .of_slots rfl

theorem State.Changed.trans (h : s.Changed length row t) (k : t.Changed length row u) :
    s.Changed length row u := by
  intro i r' hr'
  obtain ⟨q, hq, hchange⟩ := k i r' hr'
  obtain ⟨r, hr, hbefore⟩ := h i q hq
  exact ⟨r, hr, hbefore.trans hchange⟩

theorem State.Changed.to_slots (h : s.Changed length row t) (hu : u.slots = t.slots) : s.Changed length row u :=
  h.trans (.of_slots hu)

theorem changed_setRecord {i : SlotId} {r q : Record} (hr : s.record i = some r)
    (h : Record.Change length row r q) : s.Changed length row (s.setRecord i (some q)) := by
  intro j r' hr'
  rw [State.record_setRecord] at hr'
  split at hr'
  · next e =>
    obtain rfl := Option.some.inj hr'
    exact ⟨r, e ▸ hr, .single h⟩
  · exact ⟨r', hr', .refl⟩

theorem changed_removed (s : State) (i : SlotId) : s.Changed length row (s.setRecord i none) := by
  intro j r' hr'
  rw [State.record_setRecord] at hr'
  split at hr'
  · exact absurd hr' (by simp)
  · exact ⟨r', hr', .refl⟩

theorem changed_settle (s : State) (i : SlotId) (h : s.lengths = length) : s.Changed length row (s.settle i) := by
  subst h
  cases hr : s.record i with
  | none =>
    rw [s.settle_none i hr]
    exact .refl s
  | some r =>
    intro j r' hr'
    by_cases hj : j = i
    · subst hj
      rw [s.record_settle_mem j r r' hr hr']
      exact ⟨r, hr, .single (.run r _ _ (settleRun_spec s r))⟩
    · exact ⟨r', (s.record_settle_ne i j hj).symm.trans hr', .refl⟩

theorem changed_settled {i : SlotId} {r q : Record} (hr : s.record i = some r) (h : Record.Change length row r q)
    (ht : t.slots = (s.setRecord i (some q)).slots) (hl : t.lengths = length) :
    s.Changed length row (t.settle i) :=
  ((changed_setRecord hr h).to_slots ht).trans (changed_settle t i hl)

theorem changed_endWait (st : StationId) (h : s.lengths = length) : s.Changed length row (s.endWait st) := by
  unfold State.endWait
  split
  · exact .refl s
  · next i r w hw => exact changed_settled (s.waitOf_spec st i r w hw).1 (.left r _ List.filter_sublist) rfl h

theorem changed_storeAmended {i : SlotId} {r q : Record} (hr : s.record i = some r)
    (h : Record.Change length row r q) (hl : s.lengths = length) : s.Changed length row (s.storeAmended i q) := by
  have hset := changed_setRecord hr h
  refine hset.trans ?_
  have hleft := changed_settled (s := s.setRecord i (some q)) (length := length) (row := row)
    (t := (s.setRecord i (some (q.withdrawOutside q.attrs))).queueNotices ((q.leftOut q.attrs).map q.permitNotice))
    (s.record_setRecord_same i (some q)) (.left q (q.withdrawOutside q.attrs).queue List.filter_sublist)
    (by rw [State.queueNotices_slots, State.setRecord_setRecord]; rfl)
    (by rw [← hl]; funext k; exact congrArg LeaseClass.length (State.leaseClass_eq_of_lease (State.queueNotices_lease _ _) k))
  exact hleft

theorem changed_walkEffect (w : Walk) (h : s.lengths = length) : s.Changed length row (walkEffect w s).1 := by
  unfold walkEffect
  split
  · exact .refl s
  · next r hr =>
    split
    · exact .refl s
    · next g hg =>
      dsimp only
      split
      · exact changed_settled hr (.dropped r w.target (some w.target)) rfl h
      · exact changed_settled hr (.dropped r w.target r.taint) rfl h

theorem changed_tickTable (h : s.lengths = length) : s.Changed length row s.tickTable := by
  subst h
  intro i r' hr'
  rw [State.record_tickTable] at hr'
  obtain ⟨r, hr, hafter⟩ := Option.bind_eq_some_iff.mp hr'
  refine ⟨r, hr, ?_⟩
  unfold Record.afterTick at hafter
  split at hafter
  · simp only [Option.ite_none_left_eq_some, Option.some.injEq] at hafter
    obtain ⟨-, rfl⟩ := hafter
    exact .tail (.single (.ticked r)) (.run _ _ _ (grantRun_spec _ r.ticked.queue r.ticked))
  · obtain rfl := Option.some.inj hafter
    exact .single (.ticked r)

end Changed

/-- A pass over all slots that changes each from its own contents alone, read at one slot. -/
theorem record_foldl_allSlots (f : State → SlotId → State) (g : Option Record → Option Record)
    (hne : ∀ u i j, j ≠ i → (f u i).record j = u.record j) (hsame : ∀ u i, (f u i).record i = g (u.record i))
    (s : State) (i : SlotId) : (allSlots.foldl f s).record i = g (s.record i) := by
  have hout (l : List SlotId) (u : State) (h : i ∉ l) : (l.foldl f u).record i = u.record i := by
    induction l generalizing u with
    | nil => rfl
    | cons j js ih =>
      rw [List.foldl_cons, ih _ fun hm => h (List.mem_cons_of_mem _ hm)]
      exact hne u j i fun e => h (e ▸ List.mem_cons_self)
  obtain ⟨l₁, l₂, hl⟩ := List.append_of_mem (mem_allSlots i)
  have hn : allSlots.Nodup := List.nodup_finRange 64
  rw [hl] at hn ⊢
  have h1 : i ∉ l₁ := fun hm => List.disjoint_of_nodup_append hn hm List.mem_cons_self
  have h2 : i ∉ l₂ := (List.nodup_cons.mp (List.nodup_append.mp hn).2.1).1
  rw [List.foldl_append, List.foldl_cons, hout l₂ _ h2, hsame, hout l₁ s h1]

/-- A class set refits every record of the class (R85, R162). -/
theorem record_refitSlots (k : ClassId) (length : Byte) (s : State) (i : SlotId) :
    (allSlots.foldl (State.refitSlot k length) s).record i =
      (s.record i).map fun r => if r.attrs.leaseClass = k then r.refit length else r := by
  refine record_foldl_allSlots (State.refitSlot k length)
    (Option.map fun r => if r.attrs.leaseClass = k then r.refit length else r) ?_ ?_ s i
  · intro u i j hj
    unfold State.refitSlot
    split
    · rfl
    · split
      · exact u.record_setRecord_ne i j _ hj
      · rfl
  · intro u i
    cases hr : u.record i with
    | none => simp [State.refitSlot, hr]
    | some r =>
      by_cases hk : r.attrs.leaseClass = k
      · simp [State.refitSlot, hr, hk]
      · simp [State.refitSlot, hr, hk]

theorem refitSlots_lease (k : ClassId) (length : Byte) (s : State) :
    (allSlots.foldl (State.refitSlot k length) s).lease = s.lease := by
  refine foldl_keeps (State.refitSlot k length) (·.lease) (fun u i => ?_) allSlots s
  unfold State.refitSlot
  split
  · rfl
  · split <;> rfl

theorem lengths_classSet (s : State) (k : ClassId) (e : LeaseClass) (j : ClassId) :
    (allSlots.foldl (State.refitSlot k e.length) (s.setClass k e)).lengths j = if j = k then e.length else s.lengths j := by
  unfold State.lengths
  rw [State.leaseClass_eq_of_lease (refitSlots_lease k e.length (s.setClass k e))]
  unfold State.leaseClass State.setClass
  simp only [Fin.getElem_fin, Vector.getElem_set]
  split
  · next h => rw [if_pos (Fin.ext h.symm)]
  · next h => rw [if_neg fun hj => h (congrArg Fin.val hj).symm]

/-- The work of a command that sets no class leaves their lengths. -/
theorem Work.lengths {row : Instr} {s t : State} (h : Work row s t) (hrow : ∀ st, row ≠ .configureClass st) :
    t.lengths = s.lengths := by
  have key {t : State} (ht : t.lease.classes = s.lease.classes) : t.lengths = s.lengths := by
    funext k
    unfold State.lengths State.leaseClass
    rw [ht]
  cases h with
  | nothing => rfl
  | attached => exact key (by rfl)
  | listed => exact key (by rfl)
  | created => exact key (by rfl)
  | granted => exact key (by rfl)
  | queued => exact key (by rfl)
  | reheld => exact key (by rfl)
  | upgraded => exact key (by rfl)
  | upgradeQueued => exact key (by rfl)
  | released => exact key (by rw [State.settle_lease]; rfl)
  | downgraded => exact key (by rw [State.settle_lease]; rfl)
  | untainted => exact key (by rfl)
  | cancelled => exact key (by rw [State.endWait_lease])
  | defined => exact key (by rfl)
  | adopted =>
    unfold State.storeAmended
    exact key (by rw [State.settle_lease, State.queueNotices_lease]; rfl)
  | amended =>
    unfold State.storeAmended
    exact key (by rw [State.settle_lease, State.queueNotices_lease]; rfl)
  | retired => exact key (by rfl)
  | classSet => exact absurd rfl (hrow _)
  | prescalerSet => exact key (by rfl)
  | runSet =>
    unfold State.setRunning
    split <;> exact key (by rfl)
  | defaultsSet => exact key (by rfl)

/-- The work of an ordinary command changes records, one of which it may have provided. -/
theorem Work.changed {row : Instr} {s t : State} (h : Work row s t) :
    ∃ u, s.Provided u ∧ u.Changed t.lengths (some row) t := by
  have kept {t : State} (ht : s.Changed t.lengths (some row) t) :
      ∃ u, s.Provided u ∧ u.Changed t.lengths (some row) t := ⟨s, .inl rfl, ht⟩
  cases h with
  | nothing => exact kept (.of_slots rfl)
  | attached => exact kept (.of_slots rfl)
  | listed => exact kept (.of_slots rfl)
  | @created _ st i n m hi _ _ _ =>
    have hfresh : (s.newTransient n).Fresh := ⟨fun a => by simp [State.newTransient, Record.holding], rfl, rfl⟩
    have hgrantable : (s.newTransient n).GrantableNow m := ⟨rfl, fun _ => hfresh.1, fun _ a h hh => by
      rw [hfresh.1 a] at hh
      exact absurd hh (by simp)⟩
    refine ⟨s.setRecord i (some (s.newTransient n)), .inr ⟨i, _, hi, hfresh, rfl⟩, ?_⟩
    have hset := changed_setRecord (length := s.lengths) (row := some (.claim st))
      (s.record_setRecord_same i (some (s.newTransient n))) (.granted (s.newTransient n) st m rfl hgrantable)
    refine hset.to_slots ?_
    rw [State.setRecord_setRecord]
    rfl
  | @granted _ st i r m hr _ _ hnow => exact kept ((changed_setRecord hr (.granted r st m rfl hnow)).to_slots rfl)
  | @queued _ st i r m limit hr _ _ _ hlimit _ => exact kept (changed_setRecord hr (.queued r st m limit rfl hlimit))
  | @reheld _ _ st i r h g _ hr hh hm hd hl => exact kept (changed_setRecord hr (.reheld r st h g hh hm hd hl))
  | @upgraded _ st i r h hr hh hsole => exact kept (changed_setRecord hr (.upgraded r st h hh hsole))
  | @upgradeQueued _ st i r _ limit hr _ _ _ hlimit _ => exact kept (changed_setRecord hr (.upgradeQueued r st limit rfl hlimit))
  | @released _ st i r _ hr hh hw =>
    have hlengths := (Work.released hr hh hw).lengths (by simp)
    exact kept (changed_settled hr (.dropped r st r.taint) rfl hlengths.symm)
  | @downgraded _ st i r h hr hh hm =>
    have hlengths := (Work.downgraded hr hh hm).lengths (by simp)
    exact kept (changed_settled hr (.downgraded r st h hh) rfl hlengths.symm)
  | @untainted _ st i r _ hr _ => exact kept (changed_setRecord hr (.untainted r))
  | cancelled _ st =>
    have hlengths := (Work.cancelled s st).lengths (by simp)
    exact kept (changed_endWait st hlengths.symm)
  | @defined _ st i n a hi _ _ _ =>
    have hfresh : (newStanding n a).Fresh := ⟨fun a => by simp [newStanding, Record.holding], rfl, rfl⟩
    exact ⟨_, .inr ⟨i, _, hi, hfresh, rfl⟩, .of_slots rfl⟩
  | @adopted _ st i r a hr hk hc =>
    have hlengths := (Work.adopted (st := st) a hr hk hc).lengths (by simp)
    refine kept ?_
    rw [hlengths]
    exact State.Changed.trans (.of_slots (by rfl)) (changed_storeAmended
      (s := s.setStandingCount (s.standingCount + 1)) hr (.adopted r a hk) rfl)
  | @amended _ st i r a hr hk =>
    have hlengths := (Work.amended (st := st) a hr hk).lengths (by simp)
    refine kept ?_
    rw [hlengths]
    refine changed_storeAmended hr ?_ rfl
    unfold State.amended
    split
    · next hclass => exact .amended r a ⟨st, rfl⟩ hclass
    · exact .reclassed r a ⟨st, rfl⟩
  | @retired _ _ i r _ _ _ => exact kept ((changed_removed s i).to_slots rfl)
  | @classSet _ st k e _ =>
    refine kept fun i r' hr' => ?_
    rw [record_refitSlots] at hr'
    obtain ⟨r, hr, hrefit⟩ := Option.map_eq_some_iff.mp hr'
    refine ⟨r, hr, ?_⟩
    split at hrefit
    · next hk =>
      subst hrefit
      have hchange := Record.Change.refitted (length := (allSlots.foldl (State.refitSlot k e.length) (s.setClass k e)).lengths)
        (row := some (.configureClass st)) r
      rw [hk, lengths_classSet, if_pos rfl] at hchange
      exact .single hchange
    · subst hrefit
      exact .refl
  | prescalerSet => exact kept (.of_slots rfl)
  | runSet =>
    refine kept (.of_slots ?_)
    unfold State.setRunning
    split <;> rfl
  | defaultsSet => exact kept (.of_slots rfl)

/-! ### Laws of one record -/

/-- The law is kept by every change of a record. -/
def KeptByChange (length : ClassId → Byte) (p : Record → Prop) : Prop :=
  ∀ row r r', Record.Change length row r r' → p r → p r'

theorem State.EveryRecord.changed {p : Record → Prop} {length : ClassId → Byte} {row : Option Instr} {s t : State}
    (hp : KeptByChange length p) (hs : s.EveryRecord p) (h : s.Changed length row t) : t.EveryRecord p := by
  intro i r' hr'
  obtain ⟨r, hr, hchange⟩ := h i r' hr'
  have hstart := hs i r hr
  clear hr'
  induction hchange with
  | refl => exact hstart
  | tail _ hlast ih => exact hp _ _ _ hlast ih

theorem State.Provided.everyRecord {p : Record → Prop} {s u : State} (h : s.Provided u) (hfresh : ∀ r, r.Fresh → p r)
    (hs : s.EveryRecord p) : u.EveryRecord p := by
  rcases h with rfl | ⟨i, r, -, hr, rfl⟩
  · exact hs
  · refine hs.setRecord i fun q hq => ?_
    obtain rfl := Option.some.inj hq
    exact hfresh r hr

/-- What a fresh record meets and every change keeps, every step keeps of every record. -/
theorem keptByWork_of_change {p : Record → Prop} (hfresh : ∀ r, r.Fresh → p r) (hp : ∀ length, KeptByChange length p) :
    KeptByWork fun s => s.EveryRecord p where
  congr h hs := hs.congr h.1.1
  atReset := everyRecord_reset p
  work h hs := by
    obtain ⟨u, hprovided, hchanged⟩ := h.changed
    exact (hprovided.everyRecord hfresh hs).changed (hp _) hchanged
  walkEffect w _ hs := hs.changed (hp _) (changed_walkEffect (row := none) w rfl)
  tickTable _ hs := hs.changed (hp _) (changed_tickTable (row := none) rfl)

/-! ### An exclusive holding alone -/

/-- The station has an exclusive holding of the record (R5). -/
def Record.HeldExclusive (r : Record) (a : StationId) : Prop := ∃ h ∈ r.holding a, h.mode = .exclusive

/-- Where a station has an exclusive holding no other station has a holding (R5). -/
def Record.ExclusiveAlone (r : Record) : Prop := ∀ a, r.HeldExclusive a → ∀ b, b ≠ a → r.holding b = none

theorem Record.exclusiveAlone_iff (r : Record) : r.exclusiveAlone = true ↔ r.ExclusiveAlone := by
  have hexclusive (a : StationId) : (r.holding a).any (·.mode == .exclusive) = true ↔ r.HeldExclusive a := by
    unfold Record.HeldExclusive
    cases r.holding a <;> simp
  have hpair (a b : StationId) :
      (a == b || !((r.holding a).any (·.mode == .exclusive)) || !r.holds b) = true ↔
        (r.HeldExclusive a → b ≠ a → r.holding b = none) := by
    rw [← hexclusive, ← r.holds_eq_false b]
    by_cases hab : a = b
    · simp [hab]
    · cases (r.holding a).any (·.mode == .exclusive) <;> simp [hab, Ne.symm hab]
  unfold Record.exclusiveAlone Record.ExclusiveAlone
  simp only [List.all_eq_true, mem_allStations, true_implies, hpair]
  exact forall_congr' fun a => ⟨fun h ha b => h b ha, fun h b ha => h ha b⟩

theorem Record.ExclusiveAlone.of_weaker {r r' : Record} (hr : r.ExclusiveAlone)
    (hx : ∀ a, r'.HeldExclusive a → r.HeldExclusive a) (hh : ∀ a, r'.holding a ≠ none → r.holding a ≠ none) :
    r'.ExclusiveAlone := fun a ha b hb => by_contra fun hne => hh b hne (hr a (hx a ha) b hb)

theorem SameModes.heldExclusive {r r' : Record} (h : SameModes r r') (a : StationId) :
    r'.HeldExclusive a ↔ r.HeldExclusive a := by
  have hmode (q : Record) : q.HeldExclusive a ↔ (q.holding a).map (·.mode) = some .exclusive := by
    simp [Record.HeldExclusive, Option.map_eq_some_iff]
  rw [hmode, hmode, h a]

theorem Record.ExclusiveAlone.of_sameModes {r r' : Record} (hr : r.ExclusiveAlone) (h : SameModes r r') :
    r'.ExclusiveAlone := hr.of_weaker (fun a => (h.heldExclusive a).mp) fun a => mt (h.holding_eq_none a).mpr

/-- A holding given to a station besides which there is no holder. -/
theorem exclusiveAlone_setHolding_of_only {r : Record} {a : StationId} (h : ∀ b, b ≠ a → r.holding b = none)
    (o : Option Holding) : (r.setHolding a o).ExclusiveAlone := by
  have hothers (b : StationId) (hb : b ≠ a) : (r.setHolding a o).holding b = none :=
    (r.holding_setHolding_ne a b o hb).trans (h b hb)
  rintro c ⟨g, hg, -⟩ b hb
  by_cases hc : c = a
  · exact hothers b (hc ▸ hb)
  · rw [hothers c hc] at hg
    exact absurd hg (by simp)

/-- A shared holding given where there is no exclusive one. -/
theorem exclusiveAlone_setHolding_of_shared {r : Record} (a : StationId) {h : Holding} (hr : r.NoExclusiveHolder)
    (hm : h.mode = .shared) : (r.setHolding a (some h)).ExclusiveAlone := by
  intro c ⟨g, hg, hx⟩
  rw [Record.holding_setHolding] at hg
  split at hg
  · obtain rfl := Option.some.inj hg
    exact absurd (hm.symm.trans hx) (by simp)
  · exact absurd hx (hr c g hg)

theorem exclusiveAlone_ticked {r : Record} (hr : r.ExclusiveAlone) : r.ticked.ExclusiveAlone := by
  have hbefore (a : StationId) (g : Holding) (hg : r.ticked.holding a = some g) :
      ∃ h, r.holding a = some h ∧ h.mode = g.mode := by
    rw [Record.holding_ticked] at hg
    obtain ⟨h, hh, hticked⟩ := Option.bind_eq_some_iff.mp hg
    refine ⟨h, hh, ?_⟩
    unfold Holding.ticked at hticked
    split at hticked
    · exact absurd hticked (by simp)
    · obtain rfl := Option.some.inj hticked
      rfl
  refine hr.of_weaker ?_ ?_
  · rintro a ⟨g, hg, hx⟩
    obtain ⟨h, hh, hm⟩ := hbefore a g hg
    exact ⟨h, hh, hm.trans hx⟩
  · intro a ha
    obtain ⟨g, hg⟩ := Option.ne_none_iff_exists'.mp ha
    obtain ⟨h, hh, -⟩ := hbefore a g hg
    rw [hh]
    exact Option.some_ne_none h

/-- The grant rule makes a holding exclusive only where its station holds alone (R36, R37). -/
theorem GrantRun.exclusiveAlone {full : Option Nat} {r r' : Record} {b : List Waiter} (h : GrantRun full r b r')
    (hr : r.ExclusiveAlone) : r'.ExclusiveAlone := by
  induction h with
  | stopEmpty _ _ => exact hr
  | stopHeld _ _ _ _ _ => exact hr
  | grant r w ws b r' hq hg hrun ih =>
    refine ih ?_
    have hset : (r.setHolding w.station (grantedHolding full (r.holding w.station) w.request)).ExclusiveAlone := by
      unfold Record.HeadGrantable at hg
      cases hreq : w.request with
      | shared =>
        rw [hreq] at hg
        exact exclusiveAlone_setHolding_of_shared w.station hg rfl
      | exclusive =>
        rw [hreq] at hg
        exact exclusiveAlone_setHolding_of_only (fun c _ => hg c) _
      | upgrade =>
        rw [hreq] at hg
        exact exclusiveAlone_setHolding_of_only hg.2 _
    exact hset

theorem exclusiveAlone_change (length : ClassId → Byte) : KeptByChange length Record.ExclusiveAlone := by
  intro row r r' h hr
  have hsame {q : Record} (hq : q.holders = r.holders) : q.ExclusiveAlone :=
    hr.of_sameModes fun a => by rw [Record.holding, hq]; rfl
  cases h with
  | granted a m _ hnow =>
    obtain ⟨-, hexclusive, hshared⟩ := hnow
    cases m with
    | shared => exact exclusiveAlone_setHolding_of_shared a (hshared rfl) rfl
    | exclusive => exact exclusiveAlone_setHolding_of_only (fun b _ => hexclusive rfl b) _
  | queued => exact hsame rfl
  | upgradeQueued => exact hsame rfl
  | reheld a h g hh hm => exact hr.of_sameModes (sameModes_setHolding hh hm)
  | upgraded a h _ hsole => exact exclusiveAlone_setHolding_of_only hsole.2 _
  | downgraded a h hh =>
    refine hr.of_weaker ?_ fun b => mt (setHolding_holders hh b).mpr
    rintro b ⟨g, hg, hx⟩
    rw [Record.holding_setHolding] at hg
    split at hg
    · obtain rfl := Option.some.inj hg
      exact absurd hx (by simp)
    · exact ⟨g, hg, hx⟩
  | dropped a taint =>
    have hbefore (b : StationId) (g : Holding)
        (hg : (({ r with taint := taint } : Record).setHolding a none).holding b = some g) : r.holding b = some g := by
      rw [Record.holding_setHolding] at hg
      split at hg
      · exact absurd hg (by simp)
      · exact hg
    refine hr.of_weaker (fun b ⟨g, hg, hx⟩ => ⟨g, hbefore b g hg, hx⟩) fun b hb => ?_
    obtain ⟨g, hg⟩ := Option.ne_none_iff_exists'.mp hb
    rw [hbefore b g hg]
    exact Option.some_ne_none g
  | untainted => exact hsame rfl
  | left => exact hsame rfl
  | refitted => exact hr.of_sameModes (sameModes_refit r _)
  | adopted b _ => exact hr.of_sameModes (sameModes_refit { r with kind := .standing, attrs := b } _)
  | amended => exact hsame rfl
  | reclassed b _ => exact hr.of_sameModes (sameModes_refit { r with attrs := b } _)
  | ticked => exact exclusiveAlone_ticked hr
  | run _ _ hrun => exact hrun.exclusiveAlone hr

theorem Record.Fresh.exclusiveAlone {r : Record} (h : r.Fresh) : r.ExclusiveAlone := fun _ _ b _ => h.1 b

theorem exclusiveAlone_kept : KeptByWork fun s => s.EveryRecord Record.ExclusiveAlone :=
  keptByWork_of_change (fun _ => Record.Fresh.exclusiveAlone) exclusiveAlone_change

/-! ### Depths, leases and deadlines -/

/-- The depth is between 1 and 15 (R4). -/
def Holding.DepthLawful (h : Holding) : Prop := 1 ≤ h.depth ∧ h.depth ≤ 15

/-- The lease is absent where the length is 0, else from 1 to the length (R75). -/
def leaseLawful (length : Byte) : Option Nat → Prop
  | none => length = 0
  | some n => 1 ≤ n ∧ n ≤ length.toNat

/-- A finite deadline is from 1 to 254 (R50). -/
def Deadline.Lawful : Deadline → Prop
  | .ticks n => 1 ≤ n ∧ n ≤ 254
  | .unlimited => True

/-- The depths and leases of the holdings and the deadlines of the entries are lawful, at the length of the record's class. -/
def Record.CountersLawful (length : ClassId → Byte) (r : Record) : Prop :=
  (∀ a, ∀ h ∈ r.holding a, h.DepthLawful ∧ leaseLawful (length r.attrs.leaseClass) h.lease)
    ∧ ∀ w ∈ r.queue, w.deadline.Lawful

theorem State.holdingsLaw_iff (s : State) : s.HoldingsLaw ↔
    s.EveryRecord Record.ExclusiveAlone ∧ s.EveryRecord (Record.CountersLawful s.lengths) := by
  have hdepths (r : Record) : r.depthsLawful = true ↔ ∀ a, ∀ h ∈ r.holding a, h.DepthLawful := by
    simp [Record.depthsLawful, Holding.DepthLawful, mem_allStations, Option.all_eq_true]
  have hdeadlines (r : Record) : r.deadlinesLawful = true ↔ ∀ w ∈ r.queue, w.deadline.Lawful := by
    unfold Record.deadlinesLawful
    rw [List.all_eq_true]
    refine forall_congr' fun w => imp_congr_right fun _ => ?_
    cases w.deadline <;> simp [Deadline.Lawful]
  have hleases (r : Record) (length : Byte) :
      r.leasesWithin length = true ↔ ∀ a, ∀ h ∈ r.holding a, leaseLawful length h.lease := by
    simp only [Record.leasesWithin, List.all_eq_true, mem_allStations, true_implies, Option.all_eq_true]
    refine forall_congr' fun a => forall_congr' fun h => imp_congr_right fun _ => ?_
    cases h.lease <;> simp [leaseLawful]
  unfold State.HoldingsLaw State.LeasesLaw Record.CountersLawful
  simp only [hdepths, hdeadlines, hleases, Record.exclusiveAlone_iff]
  constructor
  · rintro ⟨hrecords, hlease⟩
    refine ⟨fun i r hr => (hrecords i r hr).2.1, fun i r hr => ⟨fun a h hh => ?_, (hrecords i r hr).2.2⟩⟩
    exact ⟨(hrecords i r hr).1 a h hh, hlease i r hr a h hh⟩
  · rintro ⟨halone, hcounters⟩
    refine ⟨fun i r hr => ?_, fun i r hr a h hh => ((hcounters i r hr).1 a h hh).2⟩
    exact ⟨fun a h hh => ((hcounters i r hr).1 a h hh).1, halone i r hr, (hcounters i r hr).2⟩

theorem leaseLawful_fullLease (length : Byte) : leaseLawful length (fullLease length) := by
  unfold fullLease
  split
  · next h => exact h
  · next h =>
    refine ⟨Nat.one_le_iff_ne_zero.mpr fun hz => h (BitVec.eq_of_toNat_eq ?_), le_rfl⟩
    simpa using hz

theorem leaseLawful_refitLease (length : Byte) {lease : Option Nat} (h : ∀ n ∈ lease, 1 ≤ n) :
    leaseLawful length (refitLease length lease) := by
  have hfull := leaseLawful_fullLease length
  unfold fullLease at hfull
  unfold refitLease
  split
  · next hz => exact hz
  · next hz =>
    rw [if_neg hz] at hfull
    cases lease with
    | none => exact hfull
    | some n => exact ⟨Nat.le_min.mpr ⟨h n rfl, hfull.1⟩, Nat.min_le_right _ _⟩

theorem leaseLawful_pos {length : Byte} {lease : Option Nat} (h : leaseLawful length lease) (n : Nat) (hn : n ∈ lease) :
    1 ≤ n := by
  cases hn
  exact h.1

theorem Deadline.lawful_ofLimit {limit : Byte} (h : limit ≠ 0) : (Deadline.ofLimit limit).Lawful := by
  unfold Deadline.ofLimit
  split
  · trivial
  · next hmax =>
    have hpos : limit.toNat ≠ 0 := fun hz => h (BitVec.eq_of_toNat_eq (by simpa using hz))
    have hle : limit.toNat ≠ 255 := fun hz => hmax (BitVec.eq_of_toNat_eq (by simpa using hz))
    have hlt := limit.isLt
    exact ⟨by omega, by omega⟩

section Counters

variable {length : ClassId → Byte} {r : Record}

theorem countersLawful_setHolding (hr : r.CountersLawful length) (a : StationId) {o : Option Holding}
    (ho : ∀ h ∈ o, h.DepthLawful ∧ leaseLawful (length r.attrs.leaseClass) h.lease) :
    (r.setHolding a o).CountersLawful length := by
  refine ⟨fun b h hh => ?_, hr.2⟩
  rw [Record.holding_setHolding] at hh
  split at hh
  · exact ho h hh
  · exact hr.1 b h hh

theorem countersLawful_refit {q : Record} (hr : r.CountersLawful length) (hholders : q.holders = r.holders)
    (hqueue : q.queue = r.queue) : (q.refit (length q.attrs.leaseClass)).CountersLawful length := by
  refine ⟨fun a g hg => ?_, fun w hw => hr.2 w (hqueue ▸ hw)⟩
  unfold Record.refit at hg
  rw [Record.holding_mapHoldings] at hg
  obtain ⟨h, hh, hrefit⟩ := Option.bind_eq_some_iff.mp hg
  obtain rfl := Option.some.inj hrefit
  have hheld : r.holding a = some h := by rw [← hh, Record.holding, Record.holding, hholders]
  obtain ⟨hdepth, hlease⟩ := hr.1 a h hheld
  exact ⟨hdepth, leaseLawful_refitLease _ (leaseLawful_pos hlease)⟩

theorem countersLawful_ticked (hr : r.CountersLawful length) : r.ticked.CountersLawful length := by
  obtain ⟨hholdings, hqueue⟩ := hr
  constructor
  · intro a g hg
    rw [Record.holding_ticked] at hg
    obtain ⟨h, hh, hticked⟩ := Option.bind_eq_some_iff.mp hg
    obtain ⟨hdepth, hlease⟩ := hholdings a h hh
    unfold Holding.ticked Holding.expires at hticked
    cases hl : h.lease with
    | none =>
      simp only [hl, Bool.false_eq_true, if_false, Option.map_none, Option.some.injEq] at hticked
      subst hticked
      rw [hl] at hlease
      exact ⟨hdepth, hlease⟩
    | some n =>
      simp only [hl, decide_eq_true_eq, Option.map_some, Option.ite_none_left_eq_some, Option.some.injEq] at hticked
      obtain ⟨hn, rfl⟩ := hticked
      rw [hl] at hlease
      obtain ⟨-, hle⟩ := hlease
      exact ⟨hdepth, by omega, (Nat.sub_le n 1).trans hle⟩
  · intro v hv
    rw [Record.ticked_queue, Record.tickedQueue, List.mem_filterMap] at hv
    obtain ⟨w, hw, hticked⟩ := hv
    simp only [Option.ite_none_left_eq_some, Option.some.injEq] at hticked
    obtain ⟨hend, rfl⟩ := hticked
    have hdeadline := hqueue w hw
    cases hd : w.deadline with
    | unlimited => trivial
    | ticks n =>
      have hlater : ¬ n ≤ 1 := by
        intro hle
        refine hend ?_
        unfold Record.waiterEnd
        split
        · rfl
        · simp [hd, Deadline.expires, hle]
      rw [hd] at hdeadline
      obtain ⟨-, hle⟩ := hdeadline
      exact ⟨by omega, by omega⟩

theorem GrantRun.countersLawful {r' : Record} {b : List Waiter}
    (h : GrantRun (fullLease (length r.attrs.leaseClass)) r b r') (hr : r.CountersLawful length) :
    r'.CountersLawful length := by
  generalize hfull : fullLease (length r.attrs.leaseClass) = full at h
  induction h with
  | stopEmpty _ _ => exact hr
  | stopHeld _ _ _ _ _ => exact hr
  | grant r w ws b r' hq hg hrun ih =>
    refine ih ?_ hfull
    have hlease := leaseLawful_fullLease (length r.attrs.leaseClass)
    rw [hfull] at hlease
    have hset := countersLawful_setHolding hr w.station (o := grantedHolding full (r.holding w.station) w.request) ?_
    · exact ⟨hset.1, fun v hv => hr.2 v (by rw [hq]; exact List.mem_cons_of_mem _ hv)⟩
    · intro h hh
      cases hreq : w.request with
      | shared =>
        rw [hreq] at hh
        obtain rfl := Option.some.inj hh
        exact ⟨⟨le_rfl, by simp⟩, hlease⟩
      | exclusive =>
        rw [hreq] at hh
        obtain rfl := Option.some.inj hh
        exact ⟨⟨le_rfl, by simp⟩, hlease⟩
      | upgrade =>
        rw [hreq] at hh
        obtain ⟨g, hg, rfl⟩ := Option.map_eq_some_iff.mp hh
        exact ⟨(hr.1 w.station g hg).1, hlease⟩

theorem countersLawful_change (length : ClassId → Byte) : KeptByChange length (Record.CountersLawful length) := by
  intro row r r' h hr
  have hfull := leaseLawful_fullLease (length r.attrs.leaseClass)
  cases h with
  | granted a m _ _ =>
    refine countersLawful_setHolding hr a fun h hh => ?_
    obtain rfl := Option.some.inj hh
    exact ⟨⟨le_rfl, by simp⟩, hfull⟩
  | queued a m limit _ hlimit =>
    refine ⟨hr.1, fun w hw => ?_⟩
    rcases List.mem_append.mp hw with hold | hnew
    · exact hr.2 w hold
    · obtain rfl := List.mem_singleton.mp hnew
      exact Deadline.lawful_ofLimit hlimit
  | upgradeQueued a limit _ hlimit =>
    refine ⟨hr.1, fun w hw => ?_⟩
    rcases List.mem_cons.mp hw with rfl | hold
    · exact Deadline.lawful_ofLimit hlimit
    · exact hr.2 w hold
  | reheld a h g hh _ hdepth hlease =>
    refine countersLawful_setHolding hr a fun g' hg => ?_
    obtain rfl := Option.some.inj hg
    obtain ⟨hd, hl⟩ := hr.1 a h hh
    refine ⟨hdepth hd.1 hd.2, ?_⟩
    rcases hlease with e | e
    · rwa [e]
    · rwa [e]
  | upgraded a h hh _ =>
    refine countersLawful_setHolding hr a fun g hg => ?_
    obtain rfl := Option.some.inj hg
    exact ⟨(hr.1 a h hh).1, hfull⟩
  | downgraded a h hh =>
    refine countersLawful_setHolding hr a fun g hg => ?_
    obtain rfl := Option.some.inj hg
    exact hr.1 a h hh
  | dropped a taint => exact countersLawful_setHolding (r := { r with taint := taint }) hr a fun _ hg => absurd hg (by simp)
  | untainted => exact hr
  | left q hq => exact ⟨hr.1, fun w hw => hr.2 w (hq.subset hw)⟩
  | refitted => exact countersLawful_refit hr rfl rfl
  | adopted b _ => exact countersLawful_refit (q := { r with kind := .standing, attrs := b }) hr rfl rfl
  | amended b _ hclass =>
    unfold Record.CountersLawful at *
    rwa [hclass] at hr
  | reclassed b _ => exact countersLawful_refit (q := { r with attrs := b }) hr rfl rfl
  | ticked => exact countersLawful_ticked hr
  | run _ _ hrun => exact hrun.countersLawful hr

theorem Record.Fresh.countersLawful (h : r.Fresh) : r.CountersLawful length := by
  obtain ⟨hno, hqueue, -⟩ := h
  refine ⟨fun a g hg => ?_, fun w hw => ?_⟩
  · rw [hno a] at hg
    exact absurd hg (by simp)
  · rw [hqueue] at hw
    exact absurd hw (by simp)

end Counters

theorem State.lengths_of_classes {s t : State} (h : t.lease.classes = s.lease.classes) : t.lengths = s.lengths := by
  funext k
  unfold State.lengths State.leaseClass
  rw [h]

/-- A class set refits its records to the new length, so that they keep the law under the new lengths (R85). -/
theorem countersLawful_classSet {s : State} (hs : s.EveryRecord (Record.CountersLawful s.lengths)) (k : ClassId)
    (e : LeaseClass) : (allSlots.foldl (State.refitSlot k e.length) (s.setClass k e)).EveryRecord
      (Record.CountersLawful (allSlots.foldl (State.refitSlot k e.length) (s.setClass k e)).lengths) := by
  intro i r' hr'
  rw [record_refitSlots] at hr'
  obtain ⟨r, hr, hrefit⟩ := Option.map_eq_some_iff.mp hr'
  obtain ⟨hholdings, hqueue⟩ := hs i r hr
  split at hrefit
  · next hk =>
    subst hrefit
    refine ⟨fun a g hg => ?_, hqueue⟩
    unfold Record.refit at hg
    rw [Record.holding_mapHoldings] at hg
    obtain ⟨h, hh, hlease⟩ := Option.bind_eq_some_iff.mp hg
    obtain rfl := Option.some.inj hlease
    obtain ⟨hdepth, hold⟩ := hholdings a h hh
    have hclass : (r.refit e.length).attrs.leaseClass = k := hk
    rw [hclass, lengths_classSet, if_pos rfl]
    exact ⟨hdepth, leaseLawful_refitLease _ (leaseLawful_pos hold)⟩
  · next hk =>
    subst hrefit
    refine ⟨fun a h hh => ?_, hqueue⟩
    rw [lengths_classSet, if_neg hk]
    exact hholdings a h hh

theorem countersLawful_work {row : Instr} {s t : State} (h : Work row s t)
    (hs : s.EveryRecord (Record.CountersLawful s.lengths)) : t.EveryRecord (Record.CountersLawful t.lengths) := by
  by_cases hrow : ∀ st, row ≠ .configureClass st
  · obtain ⟨u, hprovided, hchanged⟩ := h.changed
    have hu := hprovided.everyRecord (fun _ => Record.Fresh.countersLawful) hs
    rw [h.lengths hrow] at hchanged ⊢
    exact hu.changed (countersLawful_change _) hchanged
  · cases h with
    | nothing => exact hs
    | @classSet _ st k e _ => exact countersLawful_classSet hs k e
    | listed => exact hs
    | @reheld _ _ st i r h g _ hr hh hm hd hl =>
      have hchange := changed_setRecord (length := s.lengths) (row := none) hr (.reheld r st h g hh hm hd hl)
      exact State.EveryRecord.changed (countersLawful_change _) hs hchange
    | _ => exact absurd (fun _ => by simp) hrow

theorem countersLawful_kept : KeptByWork fun s => s.EveryRecord (Record.CountersLawful s.lengths) where
  congr {s t} h hs := by
    rw [State.lengths_of_classes h.2]
    exact State.EveryRecord.congr hs h.1.1
  atReset := everyRecord_reset _
  work := countersLawful_work
  walkEffect w s hs := by
    have hlengths : (walkEffect w s).1.lengths = s.lengths :=
      State.lengths_of_classes (congrArg LeaseUnit.classes (walkEffect_lease w s))
    rw [hlengths]
    exact State.EveryRecord.changed (countersLawful_change _) hs (changed_walkEffect (row := none) w rfl)
  tickTable s hs := by
    rw [State.lengths_of_classes (congrArg LeaseUnit.classes s.tickTable_lease)]
    exact State.EveryRecord.changed (countersLawful_change _) hs (changed_tickTable (row := none) rfl)

theorem holdingsLaw_reset : State.reset.HoldingsLaw :=
  (State.holdingsLaw_iff _).mpr ⟨everyRecord_reset _, everyRecord_reset _⟩

/-! ### The laws of the lease unit -/

/-- A class entry as CONFIGURE accepts it (R161). -/
def LeaseClass.Lawful (e : LeaseClass) : Prop := e.warn.toNat < e.length.toNat ∨ (e.length = 0 ∧ e.warn = 0)

/-- The laws of the lease unit alone (R70, R74). -/
def LeaseUnit.Lawful (u : LeaseUnit) : Prop :=
  (∀ k : ClassId, (u.classes[k]).Lawful) ∧ u.count < 1024 * (u.p.toNat + 1)

theorem LeaseUnit.Lawful.restarted {u : LeaseUnit} (h : u.Lawful) (p : Byte) (run : Bool) :
    ({ u with p := p, count := 0, running := run } : LeaseUnit).Lawful := ⟨h.1, by simp⟩

theorem LeaseUnit.Lawful.setClass {u : LeaseUnit} (h : u.Lawful) (k : ClassId) {e : LeaseClass} (he : e.Lawful) :
    ({ u with classes := u.classes.set k e } : LeaseUnit).Lawful := by
  refine ⟨fun j => ?_, h.2⟩
  simp only [Fin.getElem_fin, Vector.getElem_set]
  split
  · exact he
  · exact h.1 j

/-- A fault record with no cause is clear (R126). -/
def FaultRecord.Lawful (f : FaultRecord) : Prop := f.cause = none → f = .cleared

theorem FaultRecord.lawful_cleared : FaultRecord.cleared.Lawful := fun _ => rfl

theorem FaultRecord.lawful_add (f : FaultRecord) (cause : FaultCause) (detail : Byte) : (f.add cause detail).Lawful := by
  unfold FaultRecord.add
  cases f.cause with
  | none => exact fun h => absurd h (by simp)
  | some c => exact fun h => absurd h (by simp)

theorem State.unitLaw_iff (s : State) : s.UnitLaw ↔ s.lease.Lawful ∧ ∀ st, (s.ctx st).fault.Lawful := by
  unfold State.UnitLaw
  rw [← and_assoc]
  rfl

theorem Work.leaseLawful {row : Instr} {s t : State} (h : Work row s t) (hs : s.lease.Lawful) : t.lease.Lawful := by
  cases h with
  | released =>
    rw [State.settle_lease]
    exact hs
  | downgraded =>
    rw [State.settle_lease]
    exact hs
  | cancelled =>
    rw [State.endWait_lease]
    exact hs
  | adopted =>
    unfold State.storeAmended
    rw [State.settle_lease, State.queueNotices_lease]
    exact hs
  | amended =>
    unfold State.storeAmended
    rw [State.settle_lease, State.queueNotices_lease]
    exact hs
  | @classSet _ st k e he =>
    rw [refitSlots_lease]
    exact hs.setClass k he
  | prescalerSet p => exact hs.restarted _ _
  | runSet st run =>
    unfold State.setRunning
    split
    · exact hs.restarted _ _
    · exact hs
  | _ => exact hs

/-- A change of contexts that keeps every fault record. -/
theorem faultsLawful_of_same {s t : State} (h : ∀ st, (t.ctx st).fault = (s.ctx st).fault)
    (hs : ∀ st, (s.ctx st).fault.Lawful) : ∀ st, (t.ctx st).fault.Lawful := fun st => by
  rw [h st]
  exact hs st

theorem faultsLawful_modifyCtx {s : State} (hs : ∀ st, (s.ctx st).fault.Lawful) (a : StationId) {f : Station → Station}
    (hf : (s.ctx a).fault.Lawful → (f (s.ctx a)).fault.Lawful) : ∀ st, ((s.modifyCtx a f).ctx st).fault.Lawful := by
  intro st
  rw [State.ctx_modifyCtx]
  split
  · exact hf (hs a)
  · exact hs st

theorem faultsLawful_sameButNotices {s t : State} (h : ∀ st, SameButNotices (s.ctx st) (t.ctx st))
    (hs : ∀ st, (s.ctx st).fault.Lawful) : ∀ st, (t.ctx st).fault.Lawful :=
  faultsLawful_of_same (fun st => (h st).fault) hs

/-! ### Contexts in the work of a command -/

/-- What the work of a command makes of a context: notices enter it, or it is the issuer's and ATTACH brings it ONLINE or a
listing sets its cursor. -/
theorem Work.ctx {row : Instr} {s t : State} (h : Work row s t) (a : StationId) :
    SameButNotices (s.ctx a) (t.ctx a)
      ∨ (row = .attach a ∧ (s.ctx a).life = .offline ∧ t.ctx a = { s.ctx a with life := .online, noticeLost := false })
      ∨ (turnStation row = some a ∧ ∃ cur, t.ctx a = { s.ctx a with cursor := some cur }) := by
  have settled {u : State} (hu : u.stations = s.stations) (i : SlotId) : SameButNotices (s.ctx a) ((u.settle i).ctx a) := by
    have hsame := u.settle_same i a
    have hctx : u.ctx a = s.ctx a := by rw [State.ctx, hu]; rfl
    rwa [hctx] at hsame
  have stored {u : State} (hu : u.stations = s.stations) (i : SlotId) (r : Record) :
      SameButNotices (s.ctx a) ((u.storeAmended i r).ctx a) := by
    have hctx : u.ctx a = s.ctx a := by rw [State.ctx, hu]; rfl
    have hnotices := (u.setRecord i (some (r.withdrawOutside r.attrs))).queueNotices_same
      ((r.leftOut r.attrs).map r.permitNotice) a
    rw [u.ctx_setRecord, hctx] at hnotices
    exact hnotices.trans (State.settle_same _ i a)
  cases h with
  | @attached _ st hoff =>
    rw [State.ctx_modifyCtx]
    split
    · next e =>
      subst e
      exact .inr (.inl ⟨rfl, hoff, rfl⟩)
    · exact .inl (.refl _)
  | @listed _ _ st cur hst =>
    unfold State.setCursor
    rw [State.ctx_modifyCtx]
    split
    · next e =>
      subst e
      exact .inr (.inr ⟨hst, cur, rfl⟩)
    · exact .inl (.refl _)
  | released => exact .inl (settled (by rfl) _)
  | downgraded => exact .inl (settled (by rfl) _)
  | cancelled => exact .inl (s.endWait_same _ a)
  | adopted => exact .inl (stored (by rfl) _ _)
  | amended => exact .inl (stored (by rfl) _ _)
  | @classSet _ st k e _ =>
    have hkeeps := foldl_keeps (State.refitSlot k e.length) (·.ctx a) (fun u i => by
      unfold State.refitSlot
      split
      · rfl
      · split <;> rfl) allSlots (s.setClass k e)
    rw [hkeeps]
    exact .inl (.refl _)
  | runSet =>
    unfold State.setRunning
    split <;> exact .inl (.refl _)
  | _ => exact .inl (.refl _)

/-! ### The unit law -/

theorem Work.unitLaw {row : Instr} {s t : State} (h : Work row s t) (hs : s.UnitLaw) : t.UnitLaw := by
  rw [State.unitLaw_iff] at hs ⊢
  obtain ⟨hlease, hfaults⟩ := hs
  refine ⟨h.leaseLawful hlease, faultsLawful_of_same (fun a => ?_) hfaults⟩
  rcases h.ctx a with hsame | ⟨-, -, he⟩ | ⟨-, cur, he⟩
  · exact hsame.fault
  · rw [he]
  · rw [he]

/-- A change that reaches neither the lease unit nor a fault record. -/
theorem State.UnitLaw.congr {s t : State} (hs : s.UnitLaw) (hlease : t.lease = s.lease)
    (hfault : ∀ st, (t.ctx st).fault = (s.ctx st).fault) : t.UnitLaw := by
  rw [State.unitLaw_iff] at hs ⊢
  exact ⟨hlease ▸ hs.1, faultsLawful_of_same hfault hs.2⟩

theorem State.UnitLaw.sameButNotices {s t : State} (hs : s.UnitLaw) (hlease : t.lease = s.lease)
    (hsame : ∀ st, SameButNotices (s.ctx st) (t.ctx st)) : t.UnitLaw := hs.congr hlease fun st => (hsame st).fault

theorem State.UnitLaw.modifyCtx {s : State} (hs : s.UnitLaw) (st : StationId) {f : Station → Station}
    (hf : (s.ctx st).fault.Lawful → (f (s.ctx st)).fault.Lawful) : (s.modifyCtx st f).UnitLaw := by
  rw [State.unitLaw_iff] at hs ⊢
  exact ⟨hs.1, faultsLawful_modifyCtx hs.2 st hf⟩

theorem State.UnitLaw.endWait {s : State} (hs : s.UnitLaw) (st : StationId) : (s.endWait st).UnitLaw :=
  hs.sameButNotices (s.endWait_lease st) fun a => s.endWait_same st a

theorem walkStep_unitLaw (st : StationId) (c : Captured) (w : Walk) {s : State} (hs : s.UnitLaw) :
    (walkStep st c w s).UnitLaw := by
  have heffect := hs.sameButNotices (walkEffect_lease w s) fun a => walkEffect_same w s a
  unfold walkStep
  dsimp only
  split
  · exact (heffect.modifyCtx w.target (f := fun x => { x with life := .offline }) id).modifyCtx st id
  · exact heffect.modifyCtx st id

theorem tick_unitLaw {s : State} (hs : s.UnitLaw) : s.tick.UnitLaw := by
  have hstart : (s.setPrescaler 0).UnitLaw := by
    rw [State.unitLaw_iff] at hs ⊢
    exact ⟨hs.1.restarted s.lease.p s.lease.running, hs.2⟩
  exact hstart.sameButNotices (State.tickTable_lease _) fun a => State.tickTable_same _ a

theorem busRead_unitLaw (st : StationId) (off : Offset) {s : State} (hs : s.UnitLaw) : (busRead st off s).UnitLaw := by
  have heffect : (readEffect s st off).UnitLaw := by
    unfold readEffect
    split_ifs
    · exact hs.modifyCtx st id
    · exact hs.modifyCtx st id
    · refine hs.modifyCtx st fun h => ?_
      unfold Station.take
      split <;> exact h
    · exact hs.modifyCtx st fun _ => FaultRecord.lawful_add _ _ _
    · exact hs
  exact heffect

theorem busWrite_unitLaw (st : StationId) (off : Offset) (v : Byte) {s : State} (hs : s.UnitLaw) :
    (busWrite st off v s).UnitLaw := by
  have hfault (cause : FaultCause) (detail : Byte) : (s.recordFault st cause detail).UnitLaw :=
    hs.modifyCtx st fun _ => FaultRecord.lawful_add _ _ _
  have heffect : (writeEffect s st off v).UnitLaw := by
    unfold writeEffect commandWrite
    split_ifs
    · exact hs.modifyCtx st id
    · exact hfault _ _
    · exact hfault _ _
    · exact hs.modifyCtx st id
    · exact hs.modifyCtx st id
    · exact hs.modifyCtx st id
    · exact hs.modifyCtx st fun _ => FaultRecord.lawful_cleared
    · exact hfault _ _
    · exact hfault _ _
  exact heffect

theorem unitLaw_reset : State.reset.UnitLaw := by
  rw [State.unitLaw_iff]
  refine ⟨⟨fun k => ?_, by decide⟩, fun st => ?_⟩
  · simp [State.reset, LeaseClass.Lawful]
  · simp [State.ctx, State.reset, Station.reset, FaultRecord.Lawful, FaultRecord.cleared]

theorem Event.unitLaw {row : Instr} {s t : State} (h : Event row s t) (hs : s.UnitLaw) : t.UnitLaw := by
  cases h with
  | idle => exact hs
  | @completed _ _ u st _ r _ _ _ hwork _ =>
    have hworked := hwork.unitLaw hs
    exact hworked.modifyCtx st (f := fun x => { x with result := r, resultReady := true, slot := .empty }) id
  | detached st c _ _ =>
    have hdetaching : (s.setLife st .detaching).UnitLaw := hs.modifyCtx st id
    have hended := (hdetaching.endWait st).modifyCtx st (f := fun x => { x with notices := [], cursor := none }) id
    exact walkStep_unitLaw st c (Walk.start .detach st) hended
  | purged target c _ _ _ _ =>
    have hcleared : (s.modifyCtx target Station.purged).UnitLaw :=
      hs.modifyCtx target fun _ => FaultRecord.lawful_cleared
    have hended := (hcleared.endWait target).modifyCtx target (f := fun x => { x with life := .purging }) id
    exact walkStep_unitLaw 0 c (Walk.start .purge target) hended
  | walked st c w _ => exact walkStep_unitLaw st c w hs
  | ticked _ _ => exact tick_unitLaw hs
  | read off _ _ => exact busRead_unitLaw _ off hs
  | write off v _ _ => exact busWrite_unitLaw _ off v hs
  | resetHigh => exact unitLaw_reset
  | resetLow => exact hs

/-- One CLK period leaves the count below the period (R70, R71). -/
theorem clockPeriod_unitLaw {s : State} (hs : s.UnitLaw) : s.clockPeriod.UnitLaw := by
  unfold State.clockPeriod
  split
  · split
    · exact tick_unitLaw hs
    · next hcount =>
      rw [State.unitLaw_iff] at hs ⊢
      exact ⟨⟨hs.1.1, not_le.mp hcount⟩, hs.2⟩
  · exact hs

theorem step_unitLaw {s t : State} (hs : s.UnitLaw) (h : step s = .next t) : t.UnitLaw := by
  unfold Machine.step at h
  split at h
  · exact unlessReset_keeps hs (clockPeriod_unitLaw hs) h
  · next rest _ =>
    have htaken : ({ s with pending := rest } : State).UnitLaw := hs
    exact (exec_event h).unitLaw htaken

/-- Settles O59: every record changes by changes that keep its depths, deadlines, leases and exclusive holding lawful, and the
lease unit and the fault records change by their own operations. -/
theorem holdingsAndUnitLawKept : Obligations.HoldingsAndUnitLawKept := by
  refine ⟨fun s t hs h => ?_, fun _ _ hs h => step_unitLaw hs h⟩
  rw [State.holdingsLaw_iff] at hs ⊢
  exact ⟨exclusiveAlone_kept.step hs.1 h, countersLawful_kept.step hs.2 h⟩

end Sys2Proof.Machine
end

section
/-!
SUPPORT. What turns and ticks leave of the stations that they do not serve: a station that is not ONLINE is told nothing, and a
station that neither claims nor upgrades gains no place in the table. The wait of a station is one in every step.
-/

namespace Sys2Proof.Machine

/-! ### Contexts of stations that are not ONLINE -/

/-- The contexts of stations that are not ONLINE are as they were (R133). -/
def State.OfflineKept (s t : State) : Prop := ∀ a, (s.ctx a).life ≠ .online → t.ctx a = s.ctx a

section OfflineKept

variable {s t u : State}

theorem State.OfflineKept.of_stations (h : t.stations = s.stations) : s.OfflineKept t := fun a _ => by
  rw [State.ctx, h]
  rfl

theorem State.OfflineKept.trans (h : s.OfflineKept t) (k : t.OfflineKept u) : s.OfflineKept u := fun a ha => by
  rw [k a (by rwa [h a ha]), h a ha]

theorem State.OfflineKept.after (k : t.OfflineKept u) (h : t.stations = s.stations) : s.OfflineKept u :=
  (State.OfflineKept.of_stations h).trans k

theorem offlineKept_queueNotice (s : State) (b : StationId) (n : Notice) : s.OfflineKept (s.queueNotice b n) := by
  intro a ha
  by_cases hab : a = b
  · subst hab
    rw [s.queueNotice_offline a n (by simpa [State.online] using ha)]
  · exact s.ctx_queueNotice_ne b a n hab

theorem offlineKept_foldl {α : Type} (f : State → α → State) (hf : ∀ (u : State) x, u.OfflineKept (f u x)) (l : List α)
    (s : State) : s.OfflineKept (l.foldl f s) := by
  induction l generalizing s with
  | nil => exact .of_stations rfl
  | cons x xs ih => exact (hf s x).trans (ih (f s x))

theorem offlineKept_queueNotices (s : State) (ns : List (StationId × Notice)) : s.OfflineKept (s.queueNotices ns) :=
  offlineKept_foldl (fun u (x : StationId × Notice) => u.queueNotice x.1 x.2)
    (fun u x => offlineKept_queueNotice u x.1 x.2) ns s

theorem offlineKept_settle (s : State) (i : SlotId) : s.OfflineKept (s.settle i) := by
  intro a ha
  cases hr : s.record i with
  | none => rw [s.settle_none i hr]
  | some r =>
    have hoff : s.online a ≠ true := by simpa [State.online] using ha
    rw [s.notices_settle i r hr a, if_neg hoff, List.append_nil]

theorem offlineKept_endWait (s : State) (st : StationId) : s.OfflineKept (s.endWait st) := by
  unfold State.endWait
  split
  · exact .of_stations rfl
  · exact (offlineKept_settle _ _).after rfl

theorem offlineKept_storeAmended (s : State) (i : SlotId) (r : Record) : s.OfflineKept (s.storeAmended i r) :=
  ((offlineKept_queueNotices _ _).trans (offlineKept_settle _ i)).after rfl

theorem offlineKept_walkEffect (w : Walk) (s : State) : s.OfflineKept (walkEffect w s).1 := by
  unfold walkEffect
  split
  · exact .of_stations rfl
  · split
    · exact .of_stations rfl
    · exact (offlineKept_settle _ _).after rfl

theorem offlineKept_tickTable (s : State) : s.OfflineKept s.tickTable := by
  refine offlineKept_foldl State.tickSlot (fun u i => ?_) allSlots s
  cases hr : u.record i with
  | none =>
    rw [u.tickSlot_none i hr]
    exact .of_stations rfl
  | some r =>
    have hjudged := offlineKept_queueNotices u (r.holdingNotices (u.leaseClass r.attrs.leaseClass).warn)
    have hchanged : u.OfflineKept (tickChanged u i r) :=
      hjudged.trans ((offlineKept_queueNotices _ _).after (by rw [State.lowerExpired_stations]; rfl))
    rw [u.tickSlot_some i r hr]
    split
    · exact hchanged.trans (offlineKept_settle _ i)
    · exact hchanged

/-- The work of a command reaches the context of a station that is not ONLINE only where it is the issuer's. -/
theorem Work.offlineKept {row : Instr} (h : Work row s t) {a : StationId} (ha : (s.ctx a).life ≠ .online)
    (hrow : turnStation row ≠ some a) : t.ctx a = s.ctx a := by
  have hclass (k : ClassId) (e : LeaseClass) :
      (allSlots.foldl (State.refitSlot k e.length) (s.setClass k e)).ctx a = s.ctx a :=
    foldl_keeps (State.refitSlot k e.length) (·.ctx a) (fun u i => by
      unfold State.refitSlot
      split
      · rfl
      · split <;> rfl) allSlots (s.setClass k e)
  cases h with
  | @attached _ st _ => exact s.ctx_modifyCtx_ne st a _ fun e => hrow (congrArg some e.symm)
  | @listed _ _ st cur hst => exact s.ctx_modifyCtx_ne st a _ fun e => hrow (e ▸ hst)
  | released => exact ((offlineKept_settle _ _).after (by rfl)) a ha
  | downgraded => exact ((offlineKept_settle _ _).after (by rfl)) a ha
  | cancelled => exact offlineKept_endWait s _ a ha
  | adopted => exact ((offlineKept_storeAmended _ _ _).after (by rfl)) a ha
  | amended => exact offlineKept_storeAmended s _ _ a ha
  | classSet k _ => exact hclass k _
  | runSet =>
    unfold State.setRunning
    split <;> rfl
  | _ => rfl

end OfflineKept

/-- A station that is not in the line of a record is told nothing when it is settled. -/
theorem ctx_settle_of_not_mem_line {s : State} {i : SlotId} {a : StationId} (h : ∀ r ∈ s.record i, a ∉ r.line) :
    (s.settle i).ctx a = s.ctx a := by
  cases hr : s.record i with
  | none => rw [s.settle_none i hr]
  | some r =>
    have hnone : ((settleRun s r).2.filter fun w => decide (w.station = a)) = [] := by
      rw [List.filter_eq_nil_iff]
      intro w hw hst
      refine h r hr ?_
      rw [(settleRun_spec s r).line]
      exact List.mem_append_left _ (List.mem_map.mpr ⟨w, hw, of_decide_eq_true hst⟩)
    rw [s.notices_settle i r hr a, hnone]
    simp

/-! ### Places in the table -/

/-- The station has a place in the record: a holding or a waiter entry. -/
def Record.Place (r : Record) (b : StationId) : Prop := b ∈ r.line ∨ r.holding b ≠ none

/-- The station gains no place between two records: it is in line only if it was, and a holder only if it held or was in
line. -/
def Record.KeptOut (b : StationId) (r r' : Record) : Prop :=
  (b ∈ r'.line → b ∈ r.line) ∧ (r'.holding b ≠ none → r.Place b)

/-- The station gains no place in the table. -/
def State.KeptOut (b : StationId) (s t : State) : Prop :=
  ∀ i, ∀ r' ∈ t.record i, r'.Place b → ∃ r ∈ s.record i, r.KeptOut b r'

theorem Record.KeptOut.refl (b : StationId) (r : Record) : Record.KeptOut b r r := ⟨id, .inr⟩

theorem Record.KeptOut.place {b : StationId} {r r' : Record} (h : Record.KeptOut b r r') (hp : r'.Place b) :
    r.Place b := hp.elim (fun hl => .inl (h.1 hl)) h.2

theorem Record.KeptOut.trans {b : StationId} {r q p : Record} (h : Record.KeptOut b r q) (k : Record.KeptOut b q p) :
    Record.KeptOut b r p := ⟨fun hp => h.1 (k.1 hp), fun hp => h.place (k.2 hp)⟩

theorem Record.Relieved.keptOut {r r' : Record} (h : r.Relieved r') (b : StationId) : Record.KeptOut b r r' := by
  obtain ⟨batch, hsub, hhold⟩ := h
  refine ⟨fun hb => hsub.subset (List.mem_append_right _ hb), fun hb => ?_⟩
  rcases hhold b hb with hold | hmem
  · exact .inr hold
  · exact .inl (hsub.subset (List.mem_append_left _ hmem))

/-- A change gives a place to the station of its CLAIM or UPGRADE alone. -/
theorem Record.Change.keptOut {length : ClassId → Byte} {row : Option Instr} {r r' : Record}
    (h : Record.Change length row r r') {b : StationId} (hclaim : row ≠ some (.claim b))
    (hupgrade : row ≠ some (.upgrade b)) : Record.KeptOut b r r' := by
  have same {q : Record} (hq : q.queue = r.queue) (hh : ∀ a, q.holding a ≠ none → r.holding a ≠ none) :
      Record.KeptOut b r q :=
    (show r.Shrunk q from ⟨by rw [Record.line, hq]; exact .refl _, hh⟩).relieved.keptOut b
  cases h with
  | granted a m hrow _ =>
    refine ⟨id, fun hb => .inr ?_⟩
    rwa [Record.holding_setHolding_ne r a b _ fun e => hclaim (e ▸ hrow)] at hb
  | queued a m limit hrow _ =>
    have hne : b ≠ a := fun e => hclaim (e ▸ hrow)
    exact ⟨fun hb => by simpa [Record.line, hne] using hb, .inr⟩
  | upgradeQueued a limit hrow _ =>
    have hne : b ≠ a := fun e => hupgrade (e ▸ hrow)
    exact ⟨fun hb => by simpa [Record.line, hne] using hb, .inr⟩
  | reheld a h g hh _ _ _ => exact (shrunk_setHolding _ hh).relieved.keptOut b
  | upgraded a h hh _ => exact (shrunk_setHolding _ hh).relieved.keptOut b
  | downgraded a h hh => exact (shrunk_setHolding _ hh).relieved.keptOut b
  | dropped a taint =>
    refine same rfl fun c hc => ?_
    rw [Record.holding_setHolding] at hc
    split at hc
    · exact absurd rfl hc
    · exact hc
  | untainted => exact same rfl fun _ => id
  | left q hq => exact (show r.Shrunk { r with queue := q } from ⟨hq.map _, fun _ => id⟩).relieved.keptOut b
  | refitted => exact (shrunk_mapHoldings r _).relieved.keptOut b
  | adopted a _ => exact (shrunk_mapHoldings { r with kind := .standing, attrs := a } _).relieved.keptOut b
  | amended => exact same rfl fun _ => id
  | reclassed a _ => exact (shrunk_mapHoldings { r with attrs := a } _).relieved.keptOut b
  | ticked => exact (shrunk_ticked r).relieved.keptOut b
  | run _ _ hrun => exact ((Record.Shrunk.refl r).granted hrun).keptOut b

section KeptOut

variable {s t u : State} {b : StationId}

theorem State.KeptOut.of_slots (h : t.slots = s.slots) : State.KeptOut b s t := fun i r' hr' _ =>
  ⟨r', (State.record_of_slots h i).symm.trans hr', .refl b r'⟩

theorem State.KeptOut.trans (h : State.KeptOut b s t) (k : State.KeptOut b t u) : State.KeptOut b s u := by
  intro i r' hr' hp
  obtain ⟨q, hq, hkept⟩ := k i r' hr' hp
  obtain ⟨r, hr, hbefore⟩ := h i q hq (hkept.place hp)
  exact ⟨r, hr, hbefore.trans hkept⟩

theorem State.Changed.keptOut {length : ClassId → Byte} {row : Option Instr} (h : s.Changed length row t)
    (hclaim : row ≠ some (.claim b)) (hupgrade : row ≠ some (.upgrade b)) : State.KeptOut b s t := by
  intro i r' hr' hp
  obtain ⟨r, hr, hchange⟩ := h i r' hr'
  refine ⟨r, hr, ?_⟩
  clear hr' hp
  induction hchange with
  | refl => exact .refl b r
  | tail _ hlast ih => exact ih.trans (hlast.keptOut hclaim hupgrade)

theorem State.Provided.keptOut (h : s.Provided u) : State.KeptOut b s u := by
  rcases h with rfl | ⟨i, r, -, ⟨hno, hqueue, -⟩, rfl⟩
  · exact .of_slots rfl
  · intro j r' hr' hp
    rw [State.record_setRecord] at hr'
    split at hr'
    · obtain rfl := Option.some.inj hr'
      rcases hp with hl | hh
      · simp [Record.line, hqueue] at hl
      · exact absurd (hno b) hh
    · exact ⟨r', hr', .refl b r'⟩

theorem Work.keptOut {row : Instr} (h : Work row s t) (hclaim : row ≠ .claim b) (hupgrade : row ≠ .upgrade b) :
    State.KeptOut b s t := by
  obtain ⟨v, hprovided, hchanged⟩ := h.changed
  exact hprovided.keptOut.trans (hchanged.keptOut (by simpa using hclaim) (by simpa using hupgrade))

theorem keptOut_endWait (s : State) (st : StationId) : State.KeptOut b s (s.endWait st) :=
  (changed_endWait (row := none) st rfl).keptOut (by simp) (by simp)

theorem keptOut_walkEffect (w : Walk) (s : State) : State.KeptOut b s (walkEffect w s).1 :=
  (changed_walkEffect (row := none) w rfl).keptOut (by simp) (by simp)

theorem keptOut_tickTable (s : State) : State.KeptOut b s s.tickTable :=
  (changed_tickTable (row := none) rfl).keptOut (by simp) (by simp)

/-! ### Stations without a place -/

theorem State.holdsNothing_iff (s : State) (b : StationId) : s.HoldsNothing b ↔ s.EveryRecord fun r => ¬ r.Place b := by
  refine forall_congr' fun i => forall_congr' fun r => imp_congr_right fun _ => ?_
  unfold Record.Place
  dsimp only
  rw [← r.waits_iff_mem_line]
  simp [and_comm]

theorem State.walked_iff (s : State) (b : StationId) (p : SlotId) :
    s.Walked b p ↔ ∀ i, ∀ r ∈ s.record i, b ∉ r.line ∧ (i < p → ¬ r.Place b) := by
  refine forall_congr' fun i => forall_congr' fun r => imp_congr_right fun _ => ?_
  unfold Record.Place
  rw [← r.waits_iff_mem_line, Bool.not_eq_true]
  refine and_congr_right fun hw => imp_congr_right fun _ => ?_
  simp [hw]

theorem State.not_waiting_iff (s : State) (b : StationId) : ¬ s.Waiting b ↔ s.EveryRecord fun r => b ∉ r.line := by
  rw [s.waiting_iff_mem_line]
  simp [State.EveryRecord]

theorem State.KeptOut.holdsNothing (h : State.KeptOut b s t) (hs : s.HoldsNothing b) : t.HoldsNothing b := by
  rw [State.holdsNothing_iff] at hs ⊢
  intro i r' hr' hp
  obtain ⟨r, hr, hkept⟩ := h i r' hr' hp
  exact hs i r hr (hkept.place hp)

theorem State.KeptOut.walked (h : State.KeptOut b s t) {p : SlotId} (hs : s.Walked b p) : t.Walked b p := by
  rw [State.walked_iff] at hs ⊢
  intro i r' hr'
  refine ⟨fun hl => ?_, fun hi hp => ?_⟩
  · obtain ⟨r, hr, hkept⟩ := h i r' hr' (.inl hl)
    exact (hs i r hr).1 (hkept.1 hl)
  · obtain ⟨r, hr, hkept⟩ := h i r' hr' hp
    exact (hs i r hr).2 hi (hkept.place hp)

theorem State.KeptOut.not_waiting (h : State.KeptOut b s t) (hs : ¬ s.Waiting b) : ¬ t.Waiting b := by
  rw [State.not_waiting_iff] at hs ⊢
  intro i r' hr' hl
  obtain ⟨r, hr, hkept⟩ := h i r' hr' (.inl hl)
  exact hs i r hr (hkept.1 hl)

theorem State.walked_zero (hs : ¬ s.Waiting b) : s.Walked b 0 := by
  rw [State.not_waiting_iff] at hs
  rw [State.walked_iff]
  exact fun i r hr => ⟨hs i r hr, fun hi => absurd hi (Fin.not_lt_zero i)⟩

theorem State.Walked.not_waiting {p : SlotId} (hs : s.Walked b p) : ¬ s.Waiting b := by
  rw [State.walked_iff] at hs
  rw [State.not_waiting_iff]
  exact fun i r hr => (hs i r hr).1

end KeptOut

/-- After the end of its wait a station waits for nothing (R52, R58). -/
theorem not_waiting_endWait {s : State} (hs : s.OneWaitLaw) (st : StationId) : ¬ (s.endWait st).Waiting st := by
  unfold State.endWait
  cases hw : s.waitOf st with
  | none => exact (s.waitOf_eq_none st).mp hw
  | some x =>
    obtain ⟨i, r, w⟩ := x
    obtain ⟨hr, hmem, hst⟩ := s.waitOf_spec st i r w hw
    refine State.KeptOut.not_waiting ((changed_settle (row := none) _ i rfl).keptOut (by simp) (by simp)) ?_
    rw [State.not_waiting_iff]
    intro j q hq hl
    rw [State.record_setRecord] at hq
    split at hq
    · obtain rfl := Option.some.inj hq
      obtain ⟨v, hv, hvst⟩ := List.mem_map.mp hl
      have hkept := (List.mem_filter.mp hv).2
      simp [hvst] at hkept
    · next hj =>
      obtain ⟨v, hv, hvst⟩ := List.mem_map.mp hl
      exact hj (hs.unique hr hmem hst hq hv hvst).1.symm

/-- The end of its own wait tells a station nothing (R58). -/
theorem ctx_endWait_self (s : State) (st : StationId) : (s.endWait st).ctx st = s.ctx st := by
  unfold State.endWait
  cases hw : s.waitOf st with
  | none => rfl
  | some x =>
    obtain ⟨i, r, w⟩ := x
    refine ctx_settle_of_not_mem_line fun q hq hl => ?_
    rw [State.record_setRecord_same] at hq
    obtain rfl := Option.some.inj hq
    obtain ⟨v, hv, hvst⟩ := List.mem_map.mp hl
    have hkept := (List.mem_filter.mp hv).2
    simp [hvst] at hkept

/-- A station that is neither holder nor in line is no holder after the record is settled. -/
theorem not_holding_settle {u : State} {i : SlotId} {q : Record} {a : StationId} (hq : u.record i = some q)
    (hline : a ∉ q.line) (hno : q.holding a = none) : ∀ r' ∈ (u.settle i).record i, r'.holding a = none := by
  intro r' hr'
  have hspec := settleRun_spec u q
  rw [u.record_settle_mem i q r' hq hr', hspec.holding_of_not_mem a fun v hv hst => hline ?_]
  · exact hno
  · rw [hspec.line]
    exact List.mem_append_left _ (List.mem_map.mpr ⟨v, hv, hst⟩)

/-- After its walk step on a slot a station that waits for nothing has no place there (R100, R107). -/
theorem walkEffect_walked (w : Walk) {s : State} (hs : s.Walked w.target w.position) :
    ∀ r ∈ (walkEffect w s).1.record w.position, ¬ r.Place w.target := by
  have hout := (keptOut_walkEffect (b := w.target) w s).walked hs
  rw [State.walked_iff] at hs hout
  intro r' hr' hp
  refine hp.elim (hout w.position r' hr').1 fun hh => hh ?_
  obtain ⟨removed, tainted, hstep, -⟩ := walkEffect_spec w s
  rcases hstep with ⟨hnone, he, -⟩ | ⟨r, h, hr, -, -, ⟨-, -, -, he⟩ | ⟨-, -, he⟩⟩
  · rw [he] at hr'
    exact hnone r' hr'
  · rw [he] at hr'
    refine not_holding_settle (q := ({ r with taint := some w.target } : Record).setHolding w.target none) ?_
      (hs _ r hr).1 (Record.holding_setHolding_same _ w.target none) r' hr'
    exact s.record_setRecord_same _ _
  · rw [he] at hr'
    refine not_holding_settle (q := r.setHolding w.target none) ?_ (hs _ r hr).1
      (Record.holding_setHolding_same r w.target none) r' hr'
    exact s.record_setRecord_same _ _

/-! ### One wait for each station -/

theorem relieved_endWait (s : State) (st : StationId) : s.Relieved (s.endWait st) := by
  unfold State.endWait
  split
  · exact State.relieved_of_slots rfl
  · next i r w hw => exact relieved_settle_setRecord (s.waitOf_spec st i r w hw).1 (shrunk_filter r _)

theorem relieved_walkEffect (w : Walk) (s : State) : s.Relieved (walkEffect w s).1 := by
  unfold walkEffect
  split
  · exact State.relieved_of_slots rfl
  · next r hr =>
    split
    · exact State.relieved_of_slots rfl
    · next h hh =>
      dsimp only
      split
      · exact relieved_settle_dropHolding (q := { r with taint := some w.target }) hr (shrunk_of_eq rfl rfl) hh
      · exact relieved_settle_dropHolding hr (.refl r) hh

theorem Work.oneWaitLaw {row : Instr} {s t : State} (h : Work row s t) (hs : s.OneWaitLaw) : t.OneWaitLaw := by
  have stored {i : SlotId} {r q : Record} {u : State} (hr : u.record i = some r) (hu : u.slots = s.slots)
      (hq : r.Shrunk q) : (u.storeAmended i q).OneWaitLaw :=
    (relieved_storeAmended hr hq).oneWaitLaw (hs.congr hu)
  cases h with
  | created m _ _ _ _ =>
    exact State.Relieved.oneWaitLaw (relieved_setRecord_of_queue _ fun q hq => by obtain rfl := Option.some.inj hq; rfl) hs
  | granted _ _ _ hnow =>
    refine State.Relieved.oneWaitLaw (relieved_setRecord_of_queue _ fun q hq => ?_) hs
    obtain rfl := Option.some.inj hq
    exact hnow.1
  | queued hr _ _ _ _ hw =>
    refine hs.enter hr (length_lt_of_waitRefusal hw).1 ?_
    rw [Record.line, List.map_append]
    exact List.perm_append_singleton _ _
  | reheld _ hr hh _ _ _ => exact (relieved_setRecord hr (shrunk_setHolding _ hh)).oneWaitLaw hs
  | upgraded hr hh _ => exact (relieved_setRecord hr (shrunk_setHolding _ hh)).oneWaitLaw hs
  | upgradeQueued hr _ _ _ _ hw => exact hs.enter hr (length_lt_of_waitRefusal hw).1 (.refl _)
  | @released _ _ _ r _ hr hh _ => exact (relieved_settle_dropHolding hr (.refl r) hh).oneWaitLaw hs
  | downgraded hr hh _ => exact (relieved_settle_setRecord hr (shrunk_setHolding _ hh)).oneWaitLaw hs
  | untainted hr _ =>
    exact (relieved_setRecord hr (shrunk_of_eq (by rfl) (by rfl))).oneWaitLaw hs
  | cancelled => exact (relieved_endWait s _).oneWaitLaw hs
  | defined a _ _ _ _ =>
    exact State.Relieved.oneWaitLaw (relieved_setRecord_of_queue _ fun q hq => by obtain rfl := Option.some.inj hq; rfl) hs
  | @adopted _ _ i r a hr _ _ => exact stored (u := s.setStandingCount (s.standingCount + 1)) hr rfl (shrunk_adopted s r a)
  | @amended _ _ i r a hr _ => exact stored hr rfl (shrunk_amended s r a)
  | @retired _ _ i r _ _ _ =>
    exact State.Relieved.oneWaitLaw (relieved_setRecord_of_queue (o := none) i (by simp)) hs
  | classSet k _ =>
    refine foldl_holds (State.refitSlot k _) State.OneWaitLaw (fun u i hu => ?_) allSlots _ (hs.congr rfl)
    unfold State.refitSlot
    split
    · exact hu
    · next r hr =>
      split
      · exact (relieved_setRecord hr (shrunk_mapHoldings r _)).oneWaitLaw hu
      · exact hu
  | runSet =>
    unfold State.setRunning
    split <;> exact hs
  | _ => exact hs

/-- All work on the table keeps R52. -/
theorem oneWaitLaw_kept : KeptByWork State.OneWaitLaw where
  congr h hs := hs.congr h.1.1
  atReset := noCycleLaw_reset.1
  work h hs := h.oneWaitLaw hs
  walkEffect w s hs := (relieved_walkEffect w s).oneWaitLaw hs
  tickTable s hs := (relieved_tickTable s).oneWaitLaw hs

end Sys2Proof.Machine
end

section
/-!
SUPPORT. The station states, the slots, the walks and the table (R94, R95, R99, R102, R109): a step changes the state of the
station that attaches, detaches, is purged or ends its walk, and to all others it is a frame.
-/

namespace Sys2Proof.Machine

/-! ### The law at one station -/

/-- What the law of the stations says at one station. -/
structure State.StationLaw (s : State) (a : StationId) : Prop where
  quiet : (s.ctx a).life ≠ .online → (s.ctx a).notices = []
  offline : (s.ctx a).life = .offline → s.HoldsNothing a ∧ (s.ctx a).slot.walk = none
  detaching : (s.ctx a).life = .detaching → ∃ w ∈ (s.ctx a).slot.walk, w.kind = .detach
  purging : (s.ctx a).life = .purging →
    (s.ctx a).slot = .empty ∧ ∃ w ∈ (s.ctx 0).slot.walk, w.kind = .purge ∧ w.target = a
  walked : ∀ w ∈ (s.ctx a).slot.walk, s.Walked w.target w.position
  detaches : ∀ w ∈ (s.ctx a).slot.walk, w.kind = .detach → w.target = a ∧ (s.ctx a).life = .detaching
  purges : ∀ w ∈ (s.ctx a).slot.walk, w.kind = .purge →
    a = 0 ∧ w.target ≠ 0 ∧ (s.ctx 0).life = .online ∧ (s.ctx w.target).life = .purging

theorem State.stationsLaw_iff (s : State) : s.StationsLaw ↔ s.OneWaitLaw ∧ ∀ a, s.StationLaw a := by
  refine and_congr_right fun _ => forall_congr' fun a => ⟨fun h => ?_, fun h => ?_⟩
  · obtain ⟨hquiet, hoff, hdetaching, hpurging, hwalk⟩ := h
    exact ⟨hquiet, hoff, hdetaching, hpurging, fun w hw => (hwalk w hw).1, fun w hw => (hwalk w hw).2.1,
      fun w hw => (hwalk w hw).2.2⟩
  · exact ⟨h.quiet, h.offline, h.detaching, h.purging, fun w hw => ⟨h.walked w hw, h.detaches w hw, h.purges w hw⟩⟩

/-- The target of a walk is not ONLINE. -/
theorem State.StationLaw.target_ne_online {s : State} {a : StationId} (h : s.StationLaw a) {w : Walk}
    (hw : w ∈ (s.ctx a).slot.walk) : (s.ctx w.target).life ≠ .online := by
  cases hk : w.kind with
  | detach =>
    obtain ⟨ht, hl⟩ := h.detaches w hw hk
    rw [ht, hl]
    simp
  | purge =>
    rw [(h.purges w hw hk).2.2.2]
    simp

/-- An ONLINE station whose slot is EMPTY meets its law. -/
theorem State.StationLaw.of_online_empty {s : State} {a : StationId} (hl : (s.ctx a).life = .online)
    (he : (s.ctx a).slot = .empty) : s.StationLaw a where
  quiet h := absurd hl h
  offline h := absurd (hl.symm.trans h) (by simp)
  detaching h := absurd (hl.symm.trans h) (by simp)
  purging h := absurd (hl.symm.trans h) (by simp)
  walked w hw := by simp [he, CommandSlot.walk] at hw
  detaches w hw := by simp [he, CommandSlot.walk] at hw
  purges w hw := by simp [he, CommandSlot.walk] at hw

/-- Two contexts that the law of the stations does not tell apart. -/
structure Station.Alike (x y : Station) : Prop where
  life : y.life = x.life
  walk : y.slot.walk = x.slot.walk
  empty : x.life = .purging → x.slot = .empty → y.slot = .empty
  notices : x.life ≠ .online → x.notices = [] → y.notices = []

theorem Station.Alike.refl (x : Station) : x.Alike x := ⟨rfl, rfl, fun _ => id, fun _ => id⟩

theorem SameButNotices.alike {x y : Station} (h : SameButNotices x y) (hoff : x.life ≠ .online → y = x) : x.Alike y :=
  ⟨h.life, congrArg CommandSlot.walk h.slot, fun _ he => h.slot.trans he, fun hl hn => by rw [hoff hl]; exact hn⟩

/-- A station that an event does not serve keeps its law: no station that is not ONLINE gains a place, the purge that holds
it goes on, and so does the purge that it carries out. -/
theorem State.StationLaw.alike {s t : State} {a : StationId} (h : s.StationLaw a) (ha : (s.ctx a).Alike (t.ctx a))
    (hout : ∀ b, (s.ctx b).life ≠ .online → State.KeptOut b s t)
    (hpurge : (s.ctx a).life = .purging → ∀ w ∈ (s.ctx 0).slot.walk, w.kind = .purge → w.target = a →
      ∃ w' ∈ (t.ctx 0).slot.walk, w'.kind = .purge ∧ w'.target = a)
    (htarget : ∀ w ∈ (s.ctx a).slot.walk, w.kind = .purge → a = 0 →
      (t.ctx 0).life = .online ∧ (t.ctx w.target).life = .purging) : t.StationLaw a := by
  obtain ⟨hlife, hwalk, hempty, hnotices⟩ := ha
  constructor
  case quiet => exact fun hl => hnotices (hlife ▸ hl) (h.quiet (hlife ▸ hl))
  case offline =>
    intro hl
    rw [hlife] at hl
    obtain ⟨hnothing, hnone⟩ := h.offline hl
    exact ⟨(hout a (by simp [hl])).holdsNothing hnothing, hwalk.trans hnone⟩
  case detaching =>
    rw [hlife, hwalk]
    exact h.detaching
  case purging =>
    intro hl
    rw [hlife] at hl
    obtain ⟨hslot, w, hw, hk, ht⟩ := h.purging hl
    exact ⟨hempty hl hslot, hpurge hl w hw hk ht⟩
  case walked =>
    intro w hw
    rw [hwalk] at hw
    exact (hout w.target (h.target_ne_online hw)).walked (h.walked w hw)
  case detaches =>
    rw [hlife, hwalk]
    exact h.detaches
  case purges =>
    intro w hw hk
    rw [hwalk] at hw
    obtain ⟨hzero, hne, -, -⟩ := h.purges w hw hk
    exact ⟨hzero, hne, htarget w hw hk hzero⟩

/-- An event that changes no station's state, no walk and, for stations that are not ONLINE, adds nothing. -/
theorem State.StationsLaw.frame {s t : State} (hs : s.StationsLaw) (hone : t.OneWaitLaw)
    (halike : ∀ a, (s.ctx a).Alike (t.ctx a)) (hout : ∀ b, (s.ctx b).life ≠ .online → State.KeptOut b s t) :
    t.StationsLaw := by
  rw [State.stationsLaw_iff] at hs ⊢
  refine ⟨hone, fun a => (hs.2 a).alike (halike a) hout ?_ ?_⟩
  · intro _ w hw hk ht
    exact ⟨w, by rwa [(halike 0).walk], hk, ht⟩
  · intro w hw hk _
    obtain ⟨-, -, hzero, htarget⟩ := (hs.2 a).purges w hw hk
    exact ⟨(halike 0).life.trans hzero, (halike _).life.trans htarget⟩

/-! ### Ordinary commands -/

theorem CommandSlot.walk_of_pending {slot : CommandSlot} {c : Captured} (h : slot = .pending c) : slot.walk = none := by
  rw [h]
  rfl

section Completed

variable {row : Instr} {s u : State} {st : StationId} {c : Captured} (r : Result)
  (hst : turnStation row = some st) (hp : s.pendingTurn st = some c)
  (hentry : s.online st = true ∨ row = .attach st ∨ u = s) (hwork : Work row s u)
include hst hentry hwork

theorem completed_keptOut {b : StationId} (hb : (s.ctx b).life ≠ .online) : State.KeptOut b s u := by
  rcases hentry with honline | hattach | rfl
  · have hne : st ≠ b := fun e => hb (by simpa [State.online, e] using honline)
    refine hwork.keptOut ?_ ?_
    · rintro rfl
      exact hne (Option.some.inj hst).symm
    · rintro rfl
      exact hne (Option.some.inj hst).symm
  · exact hwork.keptOut (by simp [hattach]) (by simp [hattach])
  · exact .of_slots rfl

/-- An issuer that is not ONLINE is told nothing by its own command. -/
theorem completed_notices (hoff : (s.ctx st).life ≠ .online) : (u.ctx st).notices = (s.ctx st).notices := by
  rcases hentry with honline | rfl | rfl
  · exact absurd (by simpa [State.online] using honline) hoff
  · cases hwork with
    | nothing => rfl
    | attached => rw [State.ctx_modifyCtx_same]
    | listed cur hcur =>
      obtain rfl := Option.some.inj hcur
      rw [State.setCursor, State.ctx_modifyCtx_same]
    | reheld => rfl
  · rfl

include hp in
/-- A completed command leaves every station as it was, but the one that it brings ONLINE (R96, R123). -/
theorem completed_alike (a : StationId) (hlife : a = st → (u.ctx a).life = (s.ctx a).life) :
    (s.ctx a).Alike ((u.complete st r).ctx a) := by
  by_cases ha : a = st
  · subst ha
    have hslot := ((s.pendingTurn_eq_some a c).mp hp).2
    have hnotices := completed_notices hst hentry hwork
    rw [ctx_complete_same]
    exact ⟨hlife rfl, (CommandSlot.walk_of_pending hslot).symm, fun _ _ => rfl, fun hl hn => (hnotices hl).trans hn⟩
  · rw [ctx_complete_ne u st a r ha]
    have hrow : turnStation row ≠ some a := fun e => ha (Option.some.inj (e.symm.trans hst))
    refine SameButNotices.alike ?_ fun hl => hwork.offlineKept hl hrow
    rcases hwork.ctx a with hsame | ⟨rfl, -, -⟩ | ⟨he, -⟩
    · exact hsame
    · exact absurd rfl hrow
    · exact absurd he hrow

include hp in
theorem completed_stationsLaw (hs : s.StationsLaw) : (u.complete st r).StationsLaw := by
  have hone : (u.complete st r).OneWaitLaw := (hwork.oneWaitLaw hs.1).congr rfl
  have hout (b : StationId) (hb : (s.ctx b).life ≠ .online) : State.KeptOut b s (u.complete st r) :=
    (completed_keptOut hst hentry hwork hb).trans (.of_slots rfl)
  by_cases hlife : (u.ctx st).life = (s.ctx st).life
  · exact hs.frame hone (fun a => completed_alike r hst hp hentry hwork a fun ha => ha ▸ hlife) hout
  · obtain ⟨hoff, hctx⟩ : (s.ctx st).life = .offline
        ∧ u.ctx st = { s.ctx st with life := .online, noticeLost := false } := by
      rcases hwork.ctx st with hsame | ⟨-, hattached⟩ | ⟨-, cur, he⟩
      · exact absurd hsame.life hlife
      · exact hattached
      · exact absurd (by rw [he]) hlife
    have hslot := ((s.pendingTurn_eq_some st c).mp hp).2
    have halike (b : StationId) (hb : b ≠ st) : (s.ctx b).Alike ((u.complete st r).ctx b) :=
      completed_alike r hst hp hentry hwork b fun e => absurd e hb
    rw [State.stationsLaw_iff] at hs ⊢
    refine ⟨hone, fun a => ?_⟩
    by_cases ha : a = st
    · subst ha
      have honline : ((u.complete a r).ctx a).life = .online := by rw [ctx_complete_same, hctx]
      have hempty : ((u.complete a r).ctx a).slot = .empty := by rw [ctx_complete_same]
      exact .of_online_empty honline hempty
    · refine (hs.2 a).alike (halike a ha) hout ?_ ?_
      · intro _ w hw hk ht
        have hzero : (0 : StationId) ≠ st := fun e => by
          rw [e, CommandSlot.walk_of_pending hslot] at hw
          exact absurd hw (by simp)
        exact ⟨w, by rwa [(halike 0 hzero).walk], hk, ht⟩
      · intro w hw hk hzero
        subst hzero
        obtain ⟨-, -, honline, htarget⟩ := (hs.2 0).purges w hw hk
        have hne : w.target ≠ st := fun e => by
          rw [e, hoff] at htarget
          exact absurd htarget (by simp)
        exact ⟨(halike 0 ha).life.trans honline, (halike _ hne).life.trans htarget⟩

end Completed

/-! ### Walks -/

theorem walkStep_of_last (st : StationId) (c : Captured) {w : Walk} (s : State) (h : w.position = 63) :
    walkStep st c w s = ((walkEffect w s).1.setLife w.target .offline).complete st (walkEffect w s).2.result := by
  unfold walkStep
  dsimp only
  rw [if_pos h]

theorem walkStep_of_not_last (st : StationId) (c : Captured) {w : Walk} (s : State) (h : w.position ≠ 63) :
    walkStep st c w s = (walkEffect w s).1.carryWalk st c { (walkEffect w s).2 with position := w.position + 1 } := by
  unfold walkStep
  dsimp only
  rw [if_neg h]

theorem ctx_carryWalk_same (s : State) (st : StationId) (c : Captured) (w : Walk) :
    (s.carryWalk st c w).ctx st = { s.ctx st with slot := .executing c w } := s.ctx_modifyCtx_same st _

theorem ctx_carryWalk_ne (s : State) (st b : StationId) (c : Captured) (w : Walk) (h : b ≠ st) :
    (s.carryWalk st c w).ctx b = s.ctx b := s.ctx_modifyCtx_ne st b _ h

/-- A walk step takes its target out of one more slot (R99, R100, R107). -/
theorem walkEffect_walked_next (w : Walk) {s : State} (hs : s.Walked w.target w.position) (hp : w.position ≠ 63) :
    (walkEffect w s).1.Walked w.target (w.position + 1) := by
  have hat := walkEffect_walked w hs
  have hkept := (keptOut_walkEffect (b := w.target) w s).walked hs
  rw [State.walked_iff] at hkept ⊢
  intro i r hr
  refine ⟨(hkept i r hr).1, fun hi => ?_⟩
  by_cases he : i = w.position
  · subst he
    exact hat r hr
  · refine (hkept i r hr).2 ?_
    have hlt : w.position.val < 63 := by
      have := w.position.isLt
      have : w.position.val ≠ 63 := fun h => hp (Fin.ext h)
      omega
    rw [Fin.lt_def] at hi ⊢
    rw [Fin.val_add_one_of_lt (by rw [Fin.lt_def]; exact hlt)] at hi
    have : i.val ≠ w.position.val := fun h => he (Fin.ext h)
    omega

/-- After the step on slot 63 the target has no place in the table (R101, R108). -/
theorem walkEffect_holdsNothing (w : Walk) {s : State} (hs : s.Walked w.target w.position) (hp : w.position = 63) :
    (walkEffect w s).1.HoldsNothing w.target := by
  have hat := walkEffect_walked w hs
  have hkept := (keptOut_walkEffect (b := w.target) w s).walked hs
  rw [State.walked_iff] at hkept
  rw [State.holdsNothing_iff]
  intro i r hr
  by_cases he : i = w.position
  · subst he
    exact hat r hr
  · refine (hkept i r hr).2 ?_
    have := i.isLt
    have : i.val ≠ w.position.val := fun h => he (Fin.ext h)
    rw [Fin.lt_def, hp] at *
    simp at *
    omega

/-- The effect of a walk step on the contexts. -/
theorem walkEffect_alike (w : Walk) (s : State) (a : StationId) : (s.ctx a).Alike ((walkEffect w s).1.ctx a) :=
  (walkEffect_same w s a).alike fun hl => offlineKept_walkEffect w s a hl

theorem State.StationLaw.of_offline {s : State} {a : StationId} (hl : (s.ctx a).life = .offline)
    (hn : (s.ctx a).notices = []) (hnothing : s.HoldsNothing a) (hwalk : (s.ctx a).slot.walk = none) :
    s.StationLaw a where
  quiet _ := hn
  offline _ := ⟨hnothing, hwalk⟩
  detaching h := absurd (hl.symm.trans h) (by simp)
  purging h := absurd (hl.symm.trans h) (by simp)
  walked w hw := absurd (hwalk.symm.trans hw) (by simp)
  detaches w hw := absurd (hwalk.symm.trans hw) (by simp)
  purges w hw := absurd (hwalk.symm.trans hw) (by simp)

section Walked

variable {s : State} {st : StationId} {c : Captured} {w : Walk}

/-- A later turn that is not the last leaves the walk one slot further on. -/
theorem walkStep_stationsLaw_of_not_last (hw : w ∈ (s.ctx st).slot.walk) (hp : w.position ≠ 63) (hs : s.StationsLaw) :
    (walkStep st c w s).StationsLaw := by
  have hone : (walkEffect w s).1.OneWaitLaw := (relieved_walkEffect w s).oneWaitLaw hs.1
  rw [State.stationsLaw_iff] at hs
  obtain ⟨-, hlaw⟩ := hs
  have hst := hlaw st
  have hwalked := walkEffect_walked_next w (hst.walked w hw) hp
  obtain ⟨w', hw'⟩ : ∃ w', w' = { (walkEffect w s).2 with position := w.position + 1 } := ⟨_, rfl⟩
  have hkind : w'.kind = w.kind := by rw [hw', ← walkEffect_kind w s]
  have htarget : w'.target = w.target := by rw [hw', ← walkEffect_target w s]
  have hposition : w'.position = w.position + 1 := by rw [hw']
  rw [walkStep_of_not_last st c s hp, ← hw', State.stationsLaw_iff]
  have hlife (a : StationId) : (((walkEffect w s).1.carryWalk st c w').ctx a).life = (s.ctx a).life := by
    by_cases ha : a = st
    · subst ha
      rw [ctx_carryWalk_same]
      exact (walkEffect_alike w s a).life
    · rw [ctx_carryWalk_ne _ _ _ _ _ ha]
      exact (walkEffect_alike w s a).life
  have hcarried : (((walkEffect w s).1.carryWalk st c w').ctx st).slot.walk = some w' := by
    rw [ctx_carryWalk_same]
    rfl
  have hout (b : StationId) : State.KeptOut b s ((walkEffect w s).1.carryWalk st c w') :=
    (keptOut_walkEffect w s).trans (.of_slots rfl)
  refine ⟨hone.congr rfl, fun a => ?_⟩
  by_cases ha : a = st
  · subst ha
    have hcarries {v : Walk} (hv : v ∈ (((walkEffect w s).1.carryWalk a c w').ctx a).slot.walk) : v = w' :=
      (Option.some.inj (hcarried.symm.trans hv)).symm
    constructor
    case quiet =>
      intro hl
      rw [hlife] at hl
      rw [ctx_carryWalk_same]
      exact (walkEffect_alike w s a).notices hl (hst.quiet hl)
    case offline =>
      intro hl
      rw [hlife] at hl
      exact absurd ((hst.offline hl).2.symm.trans hw) (by simp)
    case detaching =>
      intro hl
      rw [hlife] at hl
      obtain ⟨v, hv, hk⟩ := hst.detaching hl
      obtain rfl := Option.some.inj (hw.symm.trans hv)
      exact ⟨w', hcarried, hkind.trans hk⟩
    case purging =>
      intro hl
      rw [hlife] at hl
      have hempty := (hst.purging hl).1
      rw [hempty] at hw
      exact absurd hw (by simp [CommandSlot.walk])
    case walked =>
      intro v hv
      obtain rfl := hcarries hv
      rw [htarget, hposition]
      exact hwalked
    case detaches =>
      intro v hv hk
      obtain rfl := hcarries hv
      rw [hlife, htarget]
      exact hst.detaches w hw (hkind.symm.trans hk)
    case purges =>
      intro v hv hk
      obtain rfl := hcarries hv
      rw [hlife, hlife, htarget]
      exact hst.purges w hw (hkind.symm.trans hk)
  · refine (hlaw a).alike ?_ (fun b _ => hout b) ?_ ?_
    · rw [ctx_carryWalk_ne _ _ _ _ _ ha]
      exact walkEffect_alike w s a
    · intro _ v hv hk ht
      by_cases hzero : (0 : StationId) = st
      · subst hzero
        obtain rfl := Option.some.inj (hw.symm.trans hv)
        exact ⟨w', hcarried, hkind.trans hk, htarget.trans ht⟩
      · rw [ctx_carryWalk_ne _ _ _ _ _ hzero, (walkEffect_alike w s 0).walk]
        exact ⟨v, hv, hk, ht⟩
    · intro v hv hk _
      obtain ⟨-, -, honline, hpurging⟩ := (hlaw a).purges v hv hk
      rw [hlife, hlife]
      exact ⟨honline, hpurging⟩

end Walked

/-! ### The end of a walk -/

/-- The end of a walk: its target is OFFLINE and the carrier's command completes (R101, R108). -/
def State.walkEnded (x : State) (target st : StationId) (r : Result) : State :=
  (x.setLife target .offline).complete st r

section WalkEnded

variable (x : State) (target st : StationId) (r : Result)

theorem ctx_walkEnded_ne {a : StationId} (hst : a ≠ st) (ht : a ≠ target) :
    (x.walkEnded target st r).ctx a = x.ctx a := by
  rw [State.walkEnded, ctx_complete_ne _ _ _ _ hst]
  exact x.ctx_modifyCtx_ne _ a _ ht

theorem ctx_walkEnded_target : ((x.walkEnded target st r).ctx target).life = .offline
    ∧ ((x.walkEnded target st r).ctx target).notices = (x.ctx target).notices
    ∧ (target ≠ st → ((x.walkEnded target st r).ctx target).slot = (x.ctx target).slot) := by
  have hset : (x.setLife target .offline).ctx target = { x.ctx target with life := .offline } :=
    x.ctx_modifyCtx_same target _
  unfold State.walkEnded
  by_cases ht : target = st
  · rw [← ht, ctx_complete_same, hset]
    exact ⟨rfl, rfl, fun h => absurd rfl h⟩
  · rw [ctx_complete_ne _ _ _ _ ht, hset]
    exact ⟨rfl, rfl, fun _ => rfl⟩

theorem ctx_walkEnded_carrier : ((x.walkEnded target st r).ctx st).slot = .empty
    ∧ (st ≠ target → ((x.walkEnded target st r).ctx st).life = (x.ctx st).life) := by
  unfold State.walkEnded
  rw [ctx_complete_same]
  refine ⟨rfl, fun h => ?_⟩
  have hset : (x.setLife target .offline).ctx st = x.ctx st := x.ctx_modifyCtx_ne target st _ h
  rw [hset]

end WalkEnded

section Last

variable {s x : State} {st : StationId} {w : Walk} (r : Result) (hs : ∀ a, s.StationLaw a)
  (hw : w ∈ (s.ctx st).slot.walk) (halike : ∀ a, (s.ctx a).Alike (x.ctx a))
include hs hw halike

theorem walkEnded_target (hnothing : x.HoldsNothing w.target) : (x.walkEnded w.target st r).StationLaw w.target := by
  have htarget := (hs st).target_ne_online hw
  obtain ⟨hlife, hnotices, hslot⟩ := ctx_walkEnded_target x w.target st r
  refine .of_offline hlife ?_ hnothing ?_
  · rw [hnotices]
    exact (halike w.target).notices htarget ((hs w.target).quiet htarget)
  · by_cases ht : w.target = st
    · rw [ht, (ctx_walkEnded_carrier x st st r).1]
      rfl
    · have hk : w.kind = .purge := by
        cases hk : w.kind with
        | detach => exact absurd ((hs st).detaches w hw hk).1 ht
        | purge => rfl
      obtain ⟨-, -, -, hpurging⟩ := (hs st).purges w hw hk
      rw [hslot ht, (halike w.target).walk, ((hs w.target).purging hpurging).1]
      rfl

theorem walkEnded_carrier (ht : st ≠ w.target) : (x.walkEnded w.target st r).StationLaw st := by
  have hk : w.kind = .purge := by
    cases hk : w.kind with
    | detach => exact absurd ((hs st).detaches w hw hk).1.symm ht
    | purge => rfl
  obtain ⟨rfl, -, honline, -⟩ := (hs st).purges w hw hk
  obtain ⟨hslot, hlife⟩ := ctx_walkEnded_carrier x w.target 0 r
  exact .of_online_empty ((hlife ht).trans ((halike 0).life.trans honline)) hslot

theorem walkEnded_other (hout : ∀ b, State.KeptOut b s x) {a : StationId} (hst : a ≠ st) (ht : a ≠ w.target) :
    (x.walkEnded w.target st r).StationLaw a := by
  have hctx {b : StationId} (hb : b ≠ st) (hbt : b ≠ w.target) := ctx_walkEnded_ne x w.target st r hb hbt
  refine (hs a).alike (by rw [hctx hst ht]; exact halike a) (fun b _ => (hout b).trans (.of_slots rfl)) ?_ ?_
  · intro _ v hv hk hva
    have hzero : (0 : StationId) ≠ st := fun e => by
      subst e
      obtain rfl := Option.some.inj (hw.symm.trans hv)
      exact ht hva.symm
    have hne : (0 : StationId) ≠ w.target := fun e => by
      cases hkw : w.kind with
      | detach => exact hzero (e.trans ((hs st).detaches w hw hkw).1)
      | purge => exact ((hs st).purges w hw hkw).2.1 e.symm
    exact ⟨v, by rwa [hctx hzero hne, (halike 0).walk], hk, hva⟩
  · intro v hv hk hzero
    subst hzero
    obtain ⟨-, -, honline, hpurging⟩ := (hs 0).purges v hv hk
    have hdetach : w.kind = .detach := by
      cases hkw : w.kind with
      | detach => rfl
      | purge => exact absurd ((hs st).purges w hw hkw).1.symm hst
    obtain ⟨hself, hdetaching⟩ := (hs st).detaches w hw hdetach
    have hne : v.target ≠ st := fun e => by
      rw [e, hdetaching] at hpurging
      exact absurd hpurging (by simp)
    rw [hctx hst ht, hctx hne (hself ▸ hne)]
    exact ⟨(halike 0).life.trans honline, (halike v.target).life.trans hpurging⟩

end Last

section Walked

variable {s : State} {st : StationId} {c : Captured} {w : Walk}

/-- The last turn of a walk leaves its target OFFLINE, without a place in the table (R101, R108). -/
theorem walkStep_stationsLaw_of_last (hw : w ∈ (s.ctx st).slot.walk) (hp : w.position = 63) (hs : s.StationsLaw) :
    (walkStep st c w s).StationsLaw := by
  have hone : (walkEffect w s).1.OneWaitLaw := (relieved_walkEffect w s).oneWaitLaw hs.1
  rw [State.stationsLaw_iff] at hs
  obtain ⟨-, hlaw⟩ := hs
  have hnothing := walkEffect_holdsNothing w ((hlaw st).walked w hw) hp
  have halike := walkEffect_alike w s
  have hout (b : StationId) : State.KeptOut b s (walkEffect w s).1 := keptOut_walkEffect w s
  rw [walkStep_of_last st c s hp]
  generalize (walkEffect w s).2.result = r
  generalize (walkEffect w s).1 = x at *
  have hended : (x.walkEnded w.target st r).StationsLaw := by
    rw [State.stationsLaw_iff]
    refine ⟨hone.congr rfl, fun a => ?_⟩
    by_cases ht : a = w.target
    · exact ht ▸ walkEnded_target r hlaw hw halike hnothing
    · by_cases hst : a = st
      · subst hst
        exact walkEnded_carrier r hlaw hw halike ht
      · exact walkEnded_other r hlaw hw halike hout hst ht
  exact hended

theorem walkStep_stationsLaw (hw : w ∈ (s.ctx st).slot.walk) (hs : s.StationsLaw) : (walkStep st c w s).StationsLaw := by
  by_cases hp : w.position = 63
  · exact walkStep_stationsLaw_of_last hw hp hs
  · exact walkStep_stationsLaw_of_not_last hw hp hs

end Walked

/-! ### First turns of walks -/

/-- The part where the first turn of a walk has prepared its target's context, ended its wait, and set its context again, and
has taken the step on slot 0 (R98, R106). -/
def firstStep (k : WalkKind) (b : StationId) (f g : Station → Station) (s : State) : State :=
  (walkEffect (Walk.start k b) (((s.modifyCtx b f).endWait b).modifyCtx b g)).1

section FirstStep

variable (k : WalkKind) {b : StationId} {f g : Station → Station} {s : State}

theorem firstStep_keptOut (a : StationId) : State.KeptOut a s (firstStep k b f g s) := by
  have hended : State.KeptOut a s (((s.modifyCtx b f).endWait b).modifyCtx b g) :=
    ((State.KeptOut.of_slots (by rfl)).trans (keptOut_endWait (s.modifyCtx b f) b)).trans (.of_slots rfl)
  exact hended.trans (keptOut_walkEffect _ _)

theorem firstStep_oneWaitLaw (hs : s.OneWaitLaw) : (firstStep k b f g s).OneWaitLaw := by
  have hended : (((s.modifyCtx b f).endWait b).modifyCtx b g).OneWaitLaw :=
    ((relieved_endWait (s.modifyCtx b f) b).oneWaitLaw (hs.congr rfl)).congr rfl
  exact (relieved_walkEffect _ _).oneWaitLaw hended

theorem not_waiting_prepared (hs : s.OneWaitLaw) : ¬ (((s.modifyCtx b f).endWait b).modifyCtx b g).Waiting b := by
  have hended := not_waiting_endWait (s := s.modifyCtx b f) (hs.congr rfl) b
  exact State.KeptOut.not_waiting (.of_slots rfl) hended

theorem firstStep_walked (hs : s.OneWaitLaw) : (firstStep k b f g s).Walked b 1 := by
  have hprepared := State.walked_zero (not_waiting_prepared (b := b) (f := f) (g := g) hs)
  exact walkEffect_walked_next (Walk.start k b) hprepared (by simp [Walk.start])

theorem ctx_firstStep_target (hoff : (g (f (s.ctx b))).life ≠ .online) :
    (firstStep k b f g s).ctx b = g (f (s.ctx b)) := by
  have hprepared : (((s.modifyCtx b f).endWait b).modifyCtx b g).ctx b = g (f (s.ctx b)) := by
    rw [State.ctx_modifyCtx_same, ctx_endWait_self, State.ctx_modifyCtx_same]
  rw [firstStep, offlineKept_walkEffect _ _ b (by rwa [hprepared]), hprepared]

theorem firstStep_alike {a : StationId} (ha : a ≠ b) : (s.ctx a).Alike ((firstStep k b f g s).ctx a) := by
  have hprepared : (s.modifyCtx b f).ctx a = s.ctx a := s.ctx_modifyCtx_ne b a f ha
  have hended : (((s.modifyCtx b f).endWait b).modifyCtx b g).ctx a = ((s.modifyCtx b f).endWait b).ctx a :=
    State.ctx_modifyCtx_ne _ b a g ha
  have hsame := (s.modifyCtx b f).endWait_same b a
  have hoff := offlineKept_endWait (s.modifyCtx b f) b a
  rw [← hended, hprepared] at hsame
  rw [← hended, hprepared] at hoff
  refine (hsame.trans (walkEffect_same _ _ a)).alike fun hl => ?_
  have hstep := offlineKept_walkEffect (Walk.start k b) (((s.modifyCtx b f).endWait b).modifyCtx b g) a
  exact (hstep (by rwa [hoff hl])).trans (hoff hl)

end FirstStep

/-- The walk that a first turn leaves in the carrier's slot: one slot on. -/
theorem firstTurn_carries (k : WalkKind) (b st : StationId) (c : Captured) (f g : Station → Station) (s : State) :
    ∃ w, w.kind = k ∧ w.target = b ∧ w.position = 1 ∧
      walkStep st c (Walk.start k b) (((s.modifyCtx b f).endWait b).modifyCtx b g) =
        (firstStep k b f g s).carryWalk st c w := by
  refine ⟨{ (walkEffect (Walk.start k b) (((s.modifyCtx b f).endWait b).modifyCtx b g)).2 with position := 1 },
    ?_, ?_, rfl, ?_⟩
  · exact walkEffect_kind (Walk.start k b) _
  · exact walkEffect_target (Walk.start k b) _
  · exact walkStep_of_not_last st c _ (by simp [Walk.start])

section FirstTurn

variable {s : State} {st b : StationId} {c : Captured} {k : WalkKind} {f g : Station → Station} {w : Walk}

/-- The first turn of a walk, at a station that is neither its carrier nor its target. -/
theorem firstTurn_other (hs : ∀ a, s.StationLaw a) (hslot : (s.ctx st).slot = .pending c)
    (hst : (s.ctx st).life = .online) (hb : (s.ctx b).life = .online) (hzero : (0 : StationId) ≠ st → (0 : StationId) ≠ b)
    {a : StationId} (ha : a ≠ st) (hab : a ≠ b) : ((firstStep k b f g s).carryWalk st c w).StationLaw a := by
  have hctx {d : StationId} (hd : d ≠ st) (hdb : d ≠ b) :
      (s.ctx d).Alike (((firstStep k b f g s).carryWalk st c w).ctx d) := by
    rw [ctx_carryWalk_ne _ _ _ _ _ hd]
    exact firstStep_alike k hdb
  refine (hs a).alike (hctx ha hab) (fun d _ => (firstStep_keptOut k d).trans (.of_slots rfl)) ?_ ?_
  · intro _ v hv hk hva
    have hne : (0 : StationId) ≠ st := fun e => by
      rw [e, CommandSlot.walk_of_pending hslot] at hv
      exact absurd hv (by simp)
    exact ⟨v, by rwa [(hctx hne (hzero hne)).walk], hk, hva⟩
  · intro v hv hk ha0
    subst ha0
    obtain ⟨-, -, hon, hpurging⟩ := (hs 0).purges v hv hk
    have hne {d : StationId} (hd : (s.ctx d).life = .online) : v.target ≠ d := fun e => by
      rw [e, hd] at hpurging
      exact absurd hpurging (by simp)
    exact ⟨(hctx ha hab).life.trans hon, (hctx (hne hst) (hne hb)).life.trans hpurging⟩

/-- The station is DETACHING and carries its own detach walk. -/
theorem firstTurn_detaching {x : State} (hlife : (x.ctx st).life = .detaching) (hnotices : (x.ctx st).notices = [])
    (hwalked : x.Walked st 1) (hk : w.kind = .detach) (ht : w.target = st) (hp : w.position = 1) :
    (x.carryWalk st c w).StationLaw st := by
  have hctx := ctx_carryWalk_same x st c w
  have hcarries {v : Walk} (hv : v ∈ ((x.carryWalk st c w).ctx st).slot.walk) : v = w := by
    rw [hctx] at hv
    exact (Option.some.inj hv).symm
  have hlife' : ((x.carryWalk st c w).ctx st).life = .detaching := by rw [hctx, hlife]
  constructor
  case quiet =>
    intro _
    rw [hctx]
    exact hnotices
  case offline => exact fun h => absurd (hlife'.symm.trans h) (by simp)
  case detaching =>
    intro _
    rw [hctx]
    exact ⟨w, rfl, hk⟩
  case purging => exact fun h => absurd (hlife'.symm.trans h) (by simp)
  case walked =>
    intro v hv
    obtain rfl := hcarries hv
    rw [ht, hp]
    exact hwalked
  case detaches =>
    intro v hv _
    obtain rfl := hcarries hv
    exact ⟨ht, hlife'⟩
  case purges =>
    intro v hv hkv
    obtain rfl := hcarries hv
    exact absurd (hk.symm.trans hkv) (by simp)

/-- The target of a purge, whose slot is EMPTY, while station 0 carries the walk. -/
theorem firstTurn_purging {x : State} (hb : b ≠ 0) (hlife : (x.ctx b).life = .purging) (hnotices : (x.ctx b).notices = [])
    (hslot : (x.ctx b).slot = .empty) (hk : w.kind = .purge) (ht : w.target = b) :
    (x.carryWalk 0 c w).StationLaw b := by
  have hctx := ctx_carryWalk_ne x 0 b c w hb
  have hnone : ((x.carryWalk 0 c w).ctx b).slot.walk = none := by rw [hctx, hslot]; rfl
  have hlife' : ((x.carryWalk 0 c w).ctx b).life = .purging := by rw [hctx, hlife]
  constructor
  case quiet => exact fun _ => by rw [hctx, hnotices]
  case offline => exact fun h => absurd (hlife'.symm.trans h) (by simp)
  case detaching => exact fun h => absurd (hlife'.symm.trans h) (by simp)
  case purging =>
    intro _
    rw [hctx, ctx_carryWalk_same]
    exact ⟨hslot, w, rfl, hk, ht⟩
  case walked => exact fun v hv => absurd (hnone.symm.trans hv) (by simp)
  case detaches => exact fun v hv => absurd (hnone.symm.trans hv) (by simp)
  case purges => exact fun v hv => absurd (hnone.symm.trans hv) (by simp)

/-- Station 0, ONLINE, carries a purge walk. -/
theorem firstTurn_purger {x : State} (hb : b ≠ 0) (hzero : (x.ctx 0).life = .online) (hlife : (x.ctx b).life = .purging)
    (hwalked : x.Walked b 1) (hk : w.kind = .purge) (ht : w.target = b) (hp : w.position = 1) :
    (x.carryWalk 0 c w).StationLaw 0 := by
  have hctx := ctx_carryWalk_same x 0 c w
  have hcarries {v : Walk} (hv : v ∈ ((x.carryWalk 0 c w).ctx 0).slot.walk) : v = w := by
    rw [hctx] at hv
    exact (Option.some.inj hv).symm
  have honline : ((x.carryWalk 0 c w).ctx 0).life = .online := by rw [hctx, hzero]
  constructor
  case quiet => exact fun h => absurd honline h
  case offline => exact fun h => absurd (honline.symm.trans h) (by simp)
  case detaching => exact fun h => absurd (honline.symm.trans h) (by simp)
  case purging => exact fun h => absurd (honline.symm.trans h) (by simp)
  case walked =>
    intro v hv
    obtain rfl := hcarries hv
    rw [ht, hp]
    exact hwalked
  case detaches =>
    intro v hv hkv
    obtain rfl := hcarries hv
    exact absurd (hk.symm.trans hkv) (by simp)
  case purges =>
    intro v hv _
    obtain rfl := hcarries hv
    rw [ht, ctx_carryWalk_ne x 0 b c v hb]
    exact ⟨rfl, hb, honline, hlife⟩

end FirstTurn

section Pending

variable {s : State} {c : Captured} (hs : s.StationsLaw)
include hs

theorem detachFirstTurn_stationsLaw {st : StationId} (hp : s.pendingTurn st = some c) (honline : s.online st = true) :
    (detachFirstTurn st c s).StationsLaw := by
  have hslot := ((s.pendingTurn_eq_some st c).mp hp).2
  have hlife : (s.ctx st).life = .online := by simpa [State.online] using honline
  obtain ⟨w, hk, ht, hpos, he⟩ := firstTurn_carries .detach st st c (fun x => { x with life := .detaching })
    (fun x => { x with notices := [], cursor := none }) s
  have hturn : detachFirstTurn st c s = _ := he
  have hctx := ctx_firstStep_target .detach (b := st) (s := s) (f := fun x => { x with life := .detaching })
    (g := fun x => { x with notices := [], cursor := none }) (by simp)
  rw [hturn, State.stationsLaw_iff]
  refine ⟨(firstStep_oneWaitLaw .detach hs.1).congr rfl, fun a => ?_⟩
  by_cases ha : a = st
  · subst ha
    exact firstTurn_detaching (by rw [hctx]) (by rw [hctx]) (firstStep_walked .detach hs.1) hk ht hpos
  · exact firstTurn_other (s.stationsLaw_iff.mp hs).2 hslot hlife hlife id ha ha

theorem purgeFirstTurn_stationsLaw {target : StationId} (hp : s.pendingTurn 0 = some c) (honline : s.online 0 = true)
    (hne : target ≠ 0) (htarget : s.online target = true) : (purgeFirstTurn 0 target c s).StationsLaw := by
  have hslot := ((s.pendingTurn_eq_some 0 c).mp hp).2
  have hzero : (s.ctx 0).life = .online := by simpa [State.online] using honline
  have hlife : (s.ctx target).life = .online := by simpa [State.online] using htarget
  obtain ⟨w, hk, ht, hpos, he⟩ := firstTurn_carries .purge target 0 c Station.purged
    (fun x => { x with life := .purging }) s
  have hturn : purgeFirstTurn 0 target c s = _ := he
  have hctx := ctx_firstStep_target .purge (b := target) (s := s) (f := Station.purged)
    (g := fun x => { x with life := .purging }) (by simp)
  rw [hturn, State.stationsLaw_iff]
  refine ⟨(firstStep_oneWaitLaw .purge hs.1).congr rfl, fun a => ?_⟩
  by_cases ha : a = target
  · subst ha
    exact firstTurn_purging hne (by rw [hctx]) (by rw [hctx]; rfl) (by rw [hctx]; rfl) hk ht
  · by_cases ha0 : a = 0
    · subst ha0
      refine firstTurn_purger hne ?_ (by rw [hctx]) (firstStep_walked .purge hs.1) hk ht hpos
      exact (firstStep_alike .purge hne.symm).life.trans hzero
    · exact firstTurn_other (s.stationsLaw_iff.mp hs).2 hslot hzero hlife (fun h => absurd rfl h) ha0 ha

end Pending

/-! ### Accesses and ticks -/

theorem tick_stationsLaw {s : State} (hs : s.StationsLaw) : s.tick.StationsLaw := by
  have hone : s.tick.OneWaitLaw := oneWaitLaw_kept.tick hs.1
  refine hs.frame hone (fun a => ?_) fun b _ => (State.KeptOut.of_slots (by rfl)).trans (keptOut_tickTable (s.setPrescaler 0))
  exact (State.tickTable_same (s.setPrescaler 0) a).alike fun hl => offlineKept_tickTable (s.setPrescaler 0) a hl

/-- A change of one context that the law does not tell apart. -/
theorem State.StationsLaw.modifyCtx {s : State} (hs : s.StationsLaw) (st : StationId) {f : Station → Station}
    (hf : (s.ctx st).Alike (f (s.ctx st))) : (s.modifyCtx st f).StationsLaw := by
  refine hs.frame (hs.1.congr rfl) (fun a => ?_) fun b _ => .of_slots rfl
  rw [State.ctx_modifyCtx]
  split
  · next e => exact e ▸ hf
  · exact .refl _

theorem busRead_stationsLaw (st : StationId) (off : Offset) {s : State} (hs : s.StationsLaw) :
    (busRead st off s).StationsLaw := by
  have heffect : (readEffect s st off).StationsLaw := by
    unfold readEffect
    split_ifs
    · exact hs.modifyCtx st ⟨rfl, rfl, fun _ => id, fun _ => id⟩
    · exact hs.modifyCtx st ⟨rfl, rfl, fun _ => id, fun _ => id⟩
    · refine hs.modifyCtx st ?_
      unfold Station.take
      split
      · exact .refl _
      · next n ns hn => exact ⟨rfl, rfl, fun _ => id, fun _ he => absurd (hn.symm.trans he) (by simp)⟩
    · exact hs.modifyCtx st ⟨rfl, rfl, fun _ => id, fun _ => id⟩
    · exact hs
  exact heffect

theorem busWrite_stationsLaw (st : StationId) (off : Offset) (v : Byte) {s : State} (hs : s.StationsLaw) :
    (busWrite st off v s).StationsLaw := by
  have hfault (cause : FaultCause) (detail : Byte) : (s.recordFault st cause detail).StationsLaw :=
    hs.modifyCtx st ⟨rfl, rfl, fun _ => id, fun _ => id⟩
  have heffect : (writeEffect s st off v).StationsLaw := by
    unfold writeEffect commandWrite
    split_ifs with hstage hcommand hwork hpurging
    · exact hs.modifyCtx st ⟨rfl, rfl, fun _ => id, fun _ => id⟩
    · exact hfault _ _
    · exact hfault _ _
    · have hslot : (s.ctx st).slot = .empty := ((s.ctx st).slot.hasWork_eq_false).mp (by simpa using hwork)
      refine hs.modifyCtx st ⟨rfl, ?_, fun hl => absurd hl hpurging, fun _ => id⟩
      rw [hslot]
      rfl
    · exact hs.modifyCtx st ⟨rfl, rfl, fun _ => id, fun _ => id⟩
    · exact hs.modifyCtx st ⟨rfl, rfl, fun _ => id, fun _ => id⟩
    · exact hs.modifyCtx st ⟨rfl, rfl, fun _ => id, fun _ => id⟩
    · exact hfault _ _
    · exact hfault _ _
  exact heffect

/-! ### Every step -/

theorem stationsLaw_reset : State.reset.StationsLaw := by
  rw [State.stationsLaw_iff]
  have hctx (a : StationId) : State.reset.ctx a = Station.reset := by simp [State.ctx, State.reset]
  refine ⟨noCycleLaw_reset.1, fun a => .of_offline ?_ ?_ (everyRecord_reset _) ?_⟩
  · rw [hctx]
    rfl
  · rw [hctx]
    rfl
  · rw [hctx]
    rfl

theorem Event.stationsLaw {row : Instr} {s t : State} (h : Event row s t) (hs : s.StationsLaw) : t.StationsLaw := by
  cases h with
  | idle => exact hs
  | @completed _ _ u st c r hst hp hentry hwork _ => exact completed_stationsLaw r hst hp hentry hwork hs
  | detached st c hp honline => exact detachFirstTurn_stationsLaw hs hp honline
  | purged target c hp honline hne htarget => exact purgeFirstTurn_stationsLaw hs hp honline hne htarget
  | walked st c w hw =>
    have hslot := ((s.walkTurn_eq_some st c w).mp hw).2
    have hcarried : w ∈ (s.ctx st).slot.walk := by rw [hslot]; rfl
    exact walkStep_stationsLaw (c := c) hcarried hs
  | ticked _ _ => exact tick_stationsLaw hs
  | read off _ _ => exact busRead_stationsLaw _ off hs
  | write off v _ _ => exact busWrite_stationsLaw _ off v hs
  | resetHigh => exact stationsLaw_reset
  | resetLow => exact hs

theorem clockPeriod_stationsLaw {s : State} (hs : s.StationsLaw) : s.clockPeriod.StationsLaw := by
  unfold State.clockPeriod
  split
  · split
    · exact tick_stationsLaw hs
    · exact hs
  · exact hs

theorem step_stationsLaw {s t : State} (hs : s.StationsLaw) (h : step s = .next t) : t.StationsLaw := by
  unfold Machine.step at h
  split at h
  · exact unlessReset_keeps hs (clockPeriod_stationsLaw hs) h
  · next rest _ =>
    have htaken : ({ s with pending := rest } : State).StationsLaw := hs
    exact (exec_event h).stationsLaw htaken

end Sys2Proof.Machine
end

section
/-!
SUPPORT. R6: an upgrade waiter is a shared holder at the head, and a claim waiter is no holder. A second upgrade wait is refused
as a deadlock, an upgrade at once finds no waiting upgrade, and a holding under an upgrade wait leaves only with that wait. With
it, O60.
-/

namespace Sys2Proof.Machine

/-! ### The law of a queue -/

/-- The station has a shared holding of the record (R5). -/
def Record.HeldShared (r : Record) (a : StationId) : Prop := ∃ h ∈ r.holding a, h.mode = .shared

/-- Each entry fits its station's holding: an upgrade waiter is a shared holder, a claim waiter no holder; and an upgrade
entry stands at the head alone (R6). -/
structure Record.QueueLawful (r : Record) : Prop where
  upgrade : ∀ a, (a, .upgrade) ∈ r.entries → r.HeldShared a
  claim : ∀ e ∈ r.entries, e.2 ≠ .upgrade → r.holding e.1 = none
  tail : ∀ e ∈ r.entries.tail, e.2 ≠ .upgrade

theorem Record.queueLawful_iff (r : Record) :
    r.QueueLawful ↔ r.claimWaitersHoldNothing = true ∧ r.upgradeWaiterAtHeadOnly = true := by
  have hshared (a : StationId) : (r.holding a).any (·.mode == .shared) = true ↔ r.HeldShared a := by
    unfold Record.HeldShared
    cases r.holding a <;> simp
  have hupgrade : (r.queue.all fun w => w.request != .upgrade || (r.holding w.station).any (·.mode == .shared)) = true ↔
      ∀ a, (a, .upgrade) ∈ r.entries → r.HeldShared a := by
    simp only [List.all_eq_true, Bool.or_eq_true, bne_iff_ne, hshared, Record.mem_entries]
    constructor
    · rintro h a ⟨w, hw, rfl, hreq⟩
      exact (h w hw).resolve_left fun hne => hne hreq
    · exact fun h w hw => or_iff_not_imp_left.mpr fun hreq => h w.station ⟨w, hw, rfl, not_not.mp hreq⟩
  have htail : r.queue.tail.all (·.request != .upgrade) = true ↔ ∀ e ∈ r.entries.tail, e.2 ≠ .upgrade := by
    simp [Record.entries, ← List.map_tail]
  unfold Record.upgradeWaiterAtHeadOnly
  rw [Bool.and_eq_true, hupgrade, htail, r.claimWaitersHoldNothing_iff]
  exact ⟨fun ⟨hu, hc, ht⟩ => ⟨hc, hu, ht⟩, fun ⟨hc, hu, ht⟩ => ⟨hu, hc, ht⟩⟩

namespace Record.QueueLawful

variable {r q : Record}

/-- Entries that leave, shared holders that stay under their upgrade waits, and no new holder. -/
theorem of_entries (h : r.QueueLawful) (he : q.entries.Sublist r.entries)
    (hshared : ∀ a, (a, .upgrade) ∈ q.entries → r.HeldShared a → q.HeldShared a)
    (hnone : ∀ a, r.holding a = none → q.holding a = none) : q.QueueLawful where
  upgrade a ha := hshared a ha (h.upgrade a (he.subset ha))
  claim e hmem hreq := hnone e.1 (h.claim e (he.subset hmem) hreq)
  tail e hmem := h.tail e (he.tail.subset hmem)

theorem of_sameModes (h : r.QueueLawful) (hm : SameModes r q) (hq : q.queue = r.queue) : q.QueueLawful := by
  have hshared (p : Record) (a : StationId) : p.HeldShared a ↔ (p.holding a).map (·.mode) = some .shared := by
    simp [Record.HeldShared, Option.map_eq_some_iff]
  refine h.of_entries (by rw [Record.entries, hq]; exact .refl _) (fun a _ ha => ?_) fun a => (hm.holding_eq_none a).mpr
  rw [hshared] at ha ⊢
  rw [hm a, ha]

theorem of_queue_nil (hq : r.queue = []) : r.QueueLawful := by
  have he : r.entries = [] := by rw [Record.entries, hq, List.map_nil]
  exact ⟨by simp [he], by simp [he], by simp [he]⟩

/-- An upgrade entry is the head (R6). -/
theorem head_of_upgrade (h : r.QueueLawful) {a : StationId} (ha : (a, .upgrade) ∈ r.entries) :
    ∃ w ws, r.queue = w :: ws ∧ w.station = a ∧ w.request = .upgrade := by
  cases hq : r.queue with
  | nil => simp [Record.entries, hq] at ha
  | cons w ws =>
    have hentries : r.entries = (w.station, w.request) :: ws.map fun v => (v.station, v.request) := by
      rw [Record.entries, hq, List.map_cons]
    rw [hentries] at ha
    rcases List.mem_cons.mp ha with he | htail
    · obtain ⟨rfl, hreq⟩ := Prod.mk.inj he
      exact ⟨w, ws, rfl, rfl, hreq.symm⟩
    · exact absurd rfl (h.tail (a, .upgrade) (by rw [hentries]; exact htail))

theorem withTaint (h : r.QueueLawful) (t : Option StationId) : ({ r with taint := t } : Record).QueueLawful :=
  ⟨h.upgrade, h.claim, h.tail⟩

/-- A holding is removed under which no upgrade waits. -/
theorem dropHolding (h : r.QueueLawful) {a : StationId} (ha : (a, .upgrade) ∉ r.entries) :
    (r.setHolding a none).QueueLawful := by
  refine h.of_entries (.refl _) (fun b hb hshared => ?_) fun b hb => ?_
  · have hne : b ≠ a := fun e => ha (e ▸ hb)
    obtain ⟨g, hg, hm⟩ := hshared
    exact ⟨g, (r.holding_setHolding_ne a b none hne).trans hg, hm⟩
  · rw [Record.holding_setHolding]
    split
    · rfl
    · exact hb

/-- A holding that becomes shared. -/
theorem shareHolding (h : r.QueueLawful) {a : StationId} {g g' : Holding} (hg : r.holding a = some g)
    (hm : g'.mode = .shared) : (r.setHolding a (some g')).QueueLawful := by
  refine h.of_entries (.refl _) (fun b _ hshared => ?_) fun b => (setHolding_holders hg b).mpr
  by_cases hb : b = a
  · subst hb
    exact ⟨g', r.holding_setHolding_same b _, hm⟩
  · obtain ⟨k, hk, hkm⟩ := hshared
    exact ⟨k, (r.holding_setHolding_ne a b _ hb).trans hk, hkm⟩

/-- The tick ends an upgrade wait with the holding under it (R67). -/
theorem ticked (h : r.QueueLawful) : r.ticked.QueueLawful := by
  refine h.of_entries (sublist_entries_ticked r) (fun a ha hshared => ?_) fun a ha => ?_
  · obtain ⟨g, hg, hm⟩ := hshared
    obtain ⟨v, hv, hst, hreq⟩ := Record.mem_entries.mp ha
    rw [Record.ticked_queue, Record.tickedQueue, List.mem_filterMap] at hv
    obtain ⟨w, -, hw⟩ := hv
    simp only [Option.ite_none_left_eq_some, Option.some.injEq] at hw
    obtain ⟨hend, rfl⟩ := hw
    have hstays : g.expires = false := by
      by_contra hex
      refine hend ?_
      have hexpires : r.expiresAt w.station = true := by
        have hst : w.station = a := hst
        rw [hst, Record.expiresAt, hg]
        simpa using hex
      rw [Record.waiterEnd, if_pos ⟨hreq, hexpires⟩]
      rfl
    refine ⟨{ g with lease := g.lease.map (· - 1) }, ?_, hm⟩
    rw [Record.holding_ticked, hg, Option.bind_some, Holding.ticked, hstays]
    rfl
  · rw [Record.holding_ticked, ha]
    rfl

/-- A claim waiter joins the tail; its station is no holder (R51). -/
theorem queued (h : r.QueueLawful) {w : Waiter} (hw : w.request ≠ .upgrade) (hh : r.holding w.station = none) :
    ({ r with queue := r.queue ++ [w] } : Record).QueueLawful := by
  have he : ({ r with queue := r.queue ++ [w] } : Record).entries = r.entries ++ [(w.station, w.request)] :=
    List.map_append
  refine ⟨fun a ha => ?_, fun e hmem hreq => ?_, fun e hmem => ?_⟩
  · rw [he] at ha
    rcases List.mem_append.mp ha with hold | hnew
    · exact h.upgrade a hold
    · have hreq := congrArg Prod.snd (List.mem_singleton.mp hnew)
      exact absurd hreq.symm hw
  · rw [he] at hmem
    rcases List.mem_append.mp hmem with hold | hnew
    · exact h.claim e hold hreq
    · rw [List.mem_singleton.mp hnew]
      exact hh
  · rw [he] at hmem
    have hmem : e ∈ r.entries.tail ∨ e ∈ [(w.station, w.request)] := by
      cases hr : r.entries with
      | nil => rw [hr] at hmem; exact absurd hmem (by simp)
      | cons x xs =>
        rw [hr, List.cons_append, List.tail_cons] at hmem
        exact List.mem_append.mp hmem
    rcases hmem with hold | hnew
    · exact h.tail e hold
    · rw [List.mem_singleton.mp hnew]
      exact hw

/-- An upgrade waiter joins the head, where none waits; it is a shared holder (R53). -/
theorem upgradeQueued (h : r.QueueLawful) {w : Waiter} (hw : w.request = .upgrade) (hh : r.HeldShared w.station)
    (hno : ∀ a, (a, .upgrade) ∉ r.entries) : ({ r with queue := w :: r.queue } : Record).QueueLawful := by
  have he : ({ r with queue := w :: r.queue } : Record).entries = (w.station, w.request) :: r.entries := List.map_cons
  refine ⟨fun a ha => ?_, fun e hmem hreq => ?_, fun e hmem hreq => ?_⟩
  · rw [he] at ha
    rcases List.mem_cons.mp ha with hnew | hold
    · obtain rfl := congrArg Prod.fst hnew
      exact hh
    · exact absurd hold (hno a)
  · rw [he] at hmem
    rcases List.mem_cons.mp hmem with rfl | hold
    · exact absurd hw hreq
    · exact h.claim e hold hreq
  · rw [he, List.tail_cons] at hmem
    exact hno e.1 (hreq ▸ hmem)

/-- The only holder, which does not wait for it, is made exclusive (R48). -/
theorem upgraded (h : r.QueueLawful) (hheld : r.HeadHeldBack) {a : StationId} {g g' : Holding} (hg : r.holding a = some g)
    (hsole : r.OnlyHolder a) : (r.setHolding a (some g')).QueueLawful := by
  refine h.of_entries (.refl _) (fun b hb _ => ?_) fun b => (setHolding_holders hg b).mpr
  obtain ⟨w, ws, hq, rfl, hreq⟩ := h.head_of_upgrade (a := b) hb
  obtain ⟨k, hk, -⟩ := h.upgrade _ hb
  have hself : w.station = a := by
    by_contra hne
    rw [hsole.2 _ hne] at hk
    exact absurd hk (by simp)
  refine absurd ?_ (hheld.of_cons hq)
  unfold Record.HeadGrantable
  rw [hreq]
  exact hself ▸ hsole

end Record.QueueLawful

/-- A run of the grant rule keeps the law of the queue (R36, R37). -/
theorem GrantRun.queueLawful {full : Option Nat} {r r' : Record} {b : List Waiter} (h : GrantRun full r b r')
    (hline : r.line.Nodup) (hr : r.QueueLawful) : r'.QueueLawful := by
  induction h with
  | stopEmpty _ _ => exact hr
  | stopHeld _ _ _ _ _ => exact hr
  | grant r w ws b r' hq hg hrun ih =>
    have hcons : r.line = w.station :: ws.map (·.station) := by rw [Record.line, hq]; rfl
    have hentries : r.entries = (w.station, w.request) :: ws.map fun v => (v.station, v.request) := by
      rw [Record.entries, hq, List.map_cons]
    rw [hcons, List.nodup_cons] at hline
    refine ih hline.2 ?_
    have hplain (e : StationId × Request) (he : e ∈ ws.map fun v => (v.station, v.request)) : e.2 ≠ .upgrade :=
      hr.tail e (by rw [hentries]; exact he)
    refine ⟨fun a ha => absurd rfl (hplain _ ha), fun e he hreq => ?_, fun e he => hplain e (List.mem_of_mem_tail he)⟩
    have hne : e.1 ≠ w.station := fun heq => by
      obtain ⟨v, hv, rfl⟩ := List.mem_map.mp he
      exact hline.1 (heq ▸ List.mem_map_of_mem hv)
    have hold := hr.claim e (by rw [hentries]; exact List.mem_cons_of_mem _ he) hreq
    exact (r.holding_setHolding_ne w.station e.1 _ hne).trans hold

/-! ### The law of all queues -/

section Work

variable {s : State} (hs : s.EveryRecord Record.QueueLawful)
include hs

theorem queuesLawful_setRecord (i : SlotId) {q : Record} (hq : q.QueueLawful) :
    (s.setRecord i (some q)).EveryRecord Record.QueueLawful :=
  hs.setRecord i fun p hp => by
    obtain rfl := Option.some.inj hp
    exact hq

theorem queuesLawful_settle (hone : s.OneWaitLaw) (i : SlotId) : (s.settle i).EveryRecord Record.QueueLawful := by
  cases hr : s.record i with
  | none =>
    rw [s.settle_none i hr]
    exact hs
  | some r =>
    intro j r' hr'
    by_cases hj : j = i
    · subst hj
      rw [s.record_settle_mem j r r' hr hr']
      exact (settleRun_spec s r).queueLawful (hone.nodup_line hr) (hs j r hr)
    · rw [s.record_settle_ne i j hj] at hr'
      exact hs j r' hr'

omit hs in
/-- A record of a state with one wait for each station, changed so that none joins its line, is settled. -/
theorem queuesLawful_settled {t : State} (hs : s.EveryRecord Record.QueueLawful) (hone : s.OneWaitLaw) {i : SlotId}
    {r q : Record} (hr : s.record i = some r) (hshrunk : r.Shrunk q) (hq : q.QueueLawful)
    (ht : t.slots = (s.setRecord i (some q)).slots) : (t.settle i).EveryRecord Record.QueueLawful := by
  have hset : t.EveryRecord Record.QueueLawful := (queuesLawful_setRecord hs i hq).congr ht
  exact queuesLawful_settle hset (((relieved_setRecord hr hshrunk).oneWaitLaw hone).congr ht) i

theorem queuesLawful_endWait (hone : s.OneWaitLaw) (st : StationId) :
    (s.endWait st).EveryRecord Record.QueueLawful := by
  unfold State.endWait
  split
  · exact hs
  · next i r w hw =>
    have hr := (s.waitOf_spec st i r w hw).1
    refine queuesLawful_settled hs hone hr (shrunk_filter r _) ?_ rfl
    exact (hs i r hr).of_entries (sublist_entries_of_queue List.filter_sublist) (fun _ _ => id) fun _ => id

theorem queuesLawful_storeAmended (hone : s.OneWaitLaw) {i : SlotId} {r q : Record} (hr : s.record i = some r)
    (hshrunk : r.Shrunk q) (hq : q.QueueLawful) : (s.storeAmended i q).EveryRecord Record.QueueLawful := by
  have hleft : (q.withdrawOutside q.attrs).QueueLawful :=
    hq.of_entries (sublist_entries_of_queue List.filter_sublist) (fun _ _ => id) fun _ => id
  exact queuesLawful_settled hs hone hr (hshrunk.trans (shrunk_filter q _)) hleft (State.queueNotices_slots _ _)

/-- A second upgrade wait on a record is refused: its station and the one that waits would stand before each other
(R60, R62). -/
theorem no_upgrade_waits (hone : s.OneWaitLaw) {i : SlotId} {r : Record} {st : StationId} {h : Holding}
    (hr : s.record i = some r) (hh : r.holding st = some h) (hw : s.waitRefusal st (r.upgradeBlockers st) = none)
    (a : StationId) : (a, .upgrade) ∉ r.entries := by
  intro ha
  obtain ⟨hwait, hchain⟩ := waitRefusal_eq_none hone hw
  have hline : a ∈ r.line := Record.mem_line_of_mem_entries ha
  have hne : a ≠ st := fun e => hwait ((s.waiting_iff_mem_line st).mpr ⟨i, r, hr, e ▸ hline⟩)
  obtain ⟨g, hg, -⟩ := (hs i r hr).upgrade a ha
  have hblocker : a ∈ r.upgradeBlockers st := by
    have hholds : r.holds a = true := (r.holds_iff a).mpr (by rw [hg]; exact Option.some_ne_none g)
    simp [Record.upgradeBlockers, mem_allStations, hholds, hne]
  refine hchain a hblocker (.single ((State.standsBefore_iff hone st a).mpr ⟨i, r, hr, .inl ⟨?_, hne.symm, hline⟩⟩))
  rw [hh]
  exact Option.some_ne_none h

omit hs in
theorem Work.queuesLawful {row : Instr} {t : State} (hwork : Work row s t) (hs : s.EveryRecord Record.QueueLawful)
    (hone : s.OneWaitLaw) (hheads : s.EveryRecord Record.HeadHeldBack) : t.EveryRecord Record.QueueLawful := by
  cases hwork with
  | created m _ _ _ _ => exact queuesLawful_setRecord hs _ (.of_queue_nil rfl)
  | granted _ _ _ hnow => exact queuesLawful_setRecord hs _ (.of_queue_nil hnow.1)
  | @queued _ st i r m limit hr hh _ _ _ _ =>
    refine queuesLawful_setRecord hs i ((hs i r hr).queued (w := ⟨st, _, _⟩) ?_ hh)
    cases m <;> simp [Request.ofMode]
  | reheld _ hr hh hm _ _ =>
    exact queuesLawful_setRecord hs _ ((hs _ _ hr).of_sameModes (sameModes_setHolding hh hm) (by rfl))
  | upgraded hr hh hsole => exact queuesLawful_setRecord hs _ ((hs _ _ hr).upgraded (hheads _ _ hr) hh hsole)
  | @upgradeQueued _ st i r h limit hr hh hm _ _ hw =>
    exact queuesLawful_setRecord hs i ((hs i r hr).upgradeQueued (w := ⟨st, .upgrade, _⟩) rfl ⟨h, hh, hm⟩
      (no_upgrade_waits hs hone hr hh hw))
  | @released _ st i r h hr hh hno =>
    refine queuesLawful_settled hs hone hr (shrunk_setHolding none hh) ((hs i r hr).dropHolding ?_) (by rfl)
    intro hmem
    obtain ⟨w, hw, hst, hreq⟩ := Record.mem_entries.mp hmem
    exact hno ⟨w, hw, hst, hreq⟩
  | @downgraded _ st i r h hr hh _ =>
    have hshared := (hs i r hr).shareHolding (g' := { h with mode := .shared }) hh rfl
    exact queuesLawful_settled hs hone hr (shrunk_setHolding _ hh) hshared (by rfl)
  | untainted hr _ => exact queuesLawful_setRecord hs _ ((hs _ _ hr).withTaint none)
  | cancelled => exact queuesLawful_endWait hs hone _
  | @defined _ _ i n a _ _ _ _ =>
    have hset := queuesLawful_setRecord hs i (q := newStanding n a) (.of_queue_nil rfl)
    exact hset.congr (by rfl)
  | @adopted _ _ i r a hr _ _ =>
    refine queuesLawful_storeAmended (s := s.setStandingCount (s.standingCount + 1)) (hs.congr (by rfl))
      (hone.congr (by rfl)) hr (shrunk_adopted s r a) ?_
    exact (hs i r hr).of_sameModes (sameModes_refit { r with kind := .standing, attrs := a } _) rfl
  | @amended _ _ i r a hr _ =>
    refine queuesLawful_storeAmended hs hone hr (shrunk_amended s r a) ?_
    unfold State.amended
    split
    · exact (hs i r hr).of_sameModes (fun _ => rfl) rfl
    · exact (hs i r hr).of_sameModes (sameModes_refit { r with attrs := a } _) rfl
  | retired hr _ _ => exact State.EveryRecord.congr (hs.setRecord _ (o := none) (by simp)) (by rfl)
  | classSet k _ =>
    refine foldl_holds (State.refitSlot k _) (fun u => u.EveryRecord Record.QueueLawful) (fun u i hu => ?_) allSlots _
      (hs.congr (by rfl))
    unfold State.refitSlot
    split
    · exact hu
    · next r hr =>
      split
      · exact queuesLawful_setRecord hu i ((hu i r hr).of_sameModes (sameModes_refit r _) rfl)
      · exact hu
  | runSet =>
    unfold State.setRunning
    split <;> exact hs
  | _ => exact hs

/-- A walk step removes a holding under which no upgrade waits: its target waits for nothing (R98, R106). -/
theorem queuesLawful_walkEffect (hone : s.OneWaitLaw) (w : Walk) (hw : ¬ s.Waiting w.target) :
    (walkEffect w s).1.EveryRecord Record.QueueLawful := by
  rw [State.not_waiting_iff] at hw
  unfold walkEffect
  split
  · exact hs
  · next r hr =>
    split
    · exact hs
    · next h hh =>
      have hno : (w.target, .upgrade) ∉ r.entries := fun hmem => hw _ r hr (Record.mem_line_of_mem_entries hmem)
      have hdropped := (hs _ r hr).dropHolding hno
      dsimp only
      split
      · have htainted := hdropped.withTaint (some w.target)
        refine queuesLawful_settled (q := { r.setHolding w.target none with taint := some w.target }) hs hone hr ?_
          htainted rfl
        exact (shrunk_setHolding none hh).trans (shrunk_of_eq rfl rfl)
      · exact queuesLawful_settled hs hone hr (shrunk_setHolding none hh) hdropped rfl

theorem queuesLawful_tickTable (hone : s.OneWaitLaw) : s.tickTable.EveryRecord Record.QueueLawful := by
  intro i r' hr'
  rw [State.record_tickTable] at hr'
  obtain ⟨r, hr, hafter⟩ := Option.bind_eq_some_iff.mp hr'
  have hticked := (hs i r hr).ticked
  unfold Record.afterTick at hafter
  split at hafter
  · simp only [Option.ite_none_left_eq_some, Option.some.injEq] at hafter
    obtain ⟨-, rfl⟩ := hafter
    exact (grantRun_spec _ r.ticked.queue r.ticked).queueLawful ((hone.nodup_line hr).sublist (shrunk_ticked r).1) hticked
  · obtain rfl := Option.some.inj hafter
    exact hticked

end Work

theorem walkStep_slots (st : StationId) (c : Captured) (w : Walk) (s : State) :
    (walkStep st c w s).slots = (walkEffect w s).1.slots := by
  unfold walkStep
  dsimp only
  split <;> rfl

theorem tick_queuesLawful {s : State} (hs : s.EveryRecord Record.QueueLawful) (hone : s.OneWaitLaw) :
    s.tick.EveryRecord Record.QueueLawful :=
  queuesLawful_tickTable (s := s.setPrescaler 0) (hs.congr rfl) (hone.congr rfl)

/-- A first turn of a walk (R98, R106). -/
theorem firstStep_queuesLawful (k : WalkKind) (b : StationId) (f g : Station → Station) {s : State}
    (hs : s.EveryRecord Record.QueueLawful) (hone : s.OneWaitLaw) :
    (firstStep k b f g s).EveryRecord Record.QueueLawful := by
  have hended : ((s.modifyCtx b f).endWait b).EveryRecord Record.QueueLawful :=
    queuesLawful_endWait (s := s.modifyCtx b f) (hs.congr rfl) (hone.congr rfl) b
  have honended : ((s.modifyCtx b f).endWait b).OneWaitLaw :=
    (relieved_endWait (s.modifyCtx b f) b).oneWaitLaw (hone.congr rfl)
  exact queuesLawful_walkEffect (s := ((s.modifyCtx b f).endWait b).modifyCtx b g) (hended.congr rfl) (honended.congr rfl)
    (Walk.start k b) (not_waiting_prepared hone)

theorem Event.queuesLawful {row : Instr} {s t : State} (h : Event row s t) (hs : s.EveryRecord Record.QueueLawful)
    (hstations : s.StationsLaw) (hheads : s.EveryRecord Record.HeadHeldBack) : t.EveryRecord Record.QueueLawful := by
  have hone := hstations.1
  cases h with
  | idle => exact hs
  | completed _ _ _ hwork _ =>
    have hworked := hwork.queuesLawful hs hone hheads
    exact hworked.congr rfl
  | detached st c _ _ =>
    have hstep := firstStep_queuesLawful .detach st (fun x => { x with life := .detaching })
      (fun x => { x with notices := [], cursor := none }) hs hone
    exact hstep.congr (walkStep_slots st c _ _)
  | purged target c _ _ _ _ =>
    have hstep := firstStep_queuesLawful .purge target Station.purged (fun x => { x with life := .purging }) hs hone
    exact hstep.congr (walkStep_slots 0 c _ _)
  | walked st c w hw =>
    have hslot := ((s.walkTurn_eq_some st c w).mp hw).2
    have hcarried : w ∈ (s.ctx st).slot.walk := by rw [hslot]; rfl
    have hwalked := ((s.stationsLaw_iff.mp hstations).2 st).walked w hcarried
    exact (queuesLawful_walkEffect hs hone w hwalked.not_waiting).congr (walkStep_slots st c w s)
  | ticked _ _ => exact tick_queuesLawful hs hone
  | read off _ _ => exact hs.congr (busRead_sameTable _ off s).1
  | write off v _ _ => exact hs.congr (busWrite_sameTable _ off v s).1
  | resetHigh => exact everyRecord_reset _
  | resetLow => exact hs

theorem step_queuesLawful {s t : State} (hs : s.EveryRecord Record.QueueLawful) (hstations : s.StationsLaw)
    (hheads : s.EveryRecord Record.HeadHeldBack) (h : step s = .next t) : t.EveryRecord Record.QueueLawful := by
  unfold Machine.step at h
  split at h
  · refine unlessReset_keeps (P := fun u => u.EveryRecord Record.QueueLawful) hs ?_ h
    unfold State.clockPeriod
    split
    · split
      · exact tick_queuesLawful hs hstations.1
      · exact hs
    · exact hs
  · next rest _ =>
    exact (exec_event h).queuesLawful (s := { s with pending := rest }) hs hstations hheads

theorem State.queuesLaw_iff (s : State) : s.QueuesLaw ↔ s.StationsLaw ∧ s.EveryRecord Record.QueueLawful
    ∧ s.EveryRecord Record.ExclusiveAlone ∧ s.EveryRecord Record.HeadHeldBack := by
  unfold State.QueuesLaw
  simp only [Record.exclusiveAlone_iff]
  refine and_congr_right fun _ => ⟨fun h => ⟨fun i r hr => ?_, fun i r hr => ?_, fun i r hr => ?_⟩, ?_⟩
  · obtain ⟨hclaim, hupgrade, -, -⟩ := h i r hr
    exact (r.queueLawful_iff).mpr ⟨hclaim, hupgrade⟩
  · obtain ⟨-, -, halone, -⟩ := h i r hr
    exact halone
  · obtain ⟨-, -, -, hheld⟩ := h i r hr
    exact hheld
  · rintro ⟨hqueue, halone, hheld⟩ i r hr
    obtain ⟨hclaim, hupgrade⟩ := (r.queueLawful_iff).mp (hqueue i r hr)
    exact ⟨hclaim, hupgrade, halone i r hr, hheld i r hr⟩

theorem queuesLaw_reset : State.reset.QueuesLaw :=
  (State.queuesLaw_iff _).mpr ⟨stationsLaw_reset, everyRecord_reset _, everyRecord_reset _, everyRecord_reset _⟩

/-- Settles O60: each step serves one station and is a frame to the others, and each change of a record keeps its queue
lawful. -/
theorem stationsAndQueuesLawKept : Obligations.StationsAndQueuesLawKept := by
  refine ⟨fun _ _ hs h => step_stationsLaw hs h, fun s t hs h => ?_⟩
  rw [State.queuesLaw_iff] at hs ⊢
  obtain ⟨hstations, hqueues, halone, hheads⟩ := hs
  exact ⟨step_stationsLaw hstations h, step_queuesLawful hqueues hstations hheads h, exclusiveAlone_kept.step halone h,
    headsHeldBack_kept.step hheads h⟩

end Sys2Proof.Machine
end

section
/-!
SUPPORT. The bus interface: what every offset reads as, and what each read and write does. With it, O45 to O48.
-/

namespace Sys2Proof.Machine

/-! ### What every offset reads as -/

/-- A staging byte reads as it was written (R176). -/
theorem windowRead_stage (s : State) (st : StationId) (off : Offset) (h : off.val < 4) :
    windowRead s st off = (s.ctx st).stage[off.val] := dif_pos h

/-- An unassigned offset reads as 0xFF (R177). -/
theorem windowRead_unassigned (s : State) (st : StationId) (off : Offset) (h : 22 ≤ off.val) :
    windowRead s st off = 0xFF := by
  obtain ⟨n, hn⟩ := off
  change 22 ≤ n at h
  interval_cases n <;> rfl

/-- The fields of the STATUS byte as one number (R178). -/
theorem statusByte_eq (fault lost wait line ready busy : Bool) (life : Life) :
    statusByte fault lost wait line ready busy life = BitVec.ofNat 8
      ((match life with | .offline => 0 | .online => 1 | .detaching => 2 | .purging => 3)
        + (if busy = true then 4 else 0) + (if ready = true then 8 else 0) + (if line = true then 16 else 0)
        + (if wait = true then 32 else 0) + (if lost = true then 64 else 0) + (if fault = true then 128 else 0)) := by
  revert fault lost wait line ready busy
  cases life <;> decide

theorem State.status_eq (s : State) (st : StationId) : s.status st = BitVec.ofNat 8
    ((match (s.ctx st).life with | .offline => 0 | .online => 1 | .detaching => 2 | .purging => 3)
      + (if (s.ctx st).slot = .empty then 0 else 4) + (if (s.ctx st).resultReady = true then 8 else 0)
      + (if s.lineLow st = true then 16 else 0) + (if s.hasWait st = true then 32 else 0)
      + (if (s.ctx st).noticeLost = true then 64 else 0)
      + (if (s.ctx st).fault = ⟨none, 0, false⟩ then 0 else 128)) := by
  have hbusy : (if (s.ctx st).slot.hasWork = true then 4 else 0) = if (s.ctx st).slot = .empty then 0 else 4 := by
    simp only [CommandSlot.hasWork_eq_true, ne_eq, ite_not]
  have hfault : (if decide ((s.ctx st).fault ≠ .cleared) = true then 128 else 0)
      = if (s.ctx st).fault = ⟨none, 0, false⟩ then 0 else 128 := by
    by_cases h : (s.ctx st).fault = ⟨none, 0, false⟩
    · rw [if_pos h]
      exact if_neg (mt of_decide_eq_true (not_not_intro h))
    · rw [if_neg h]
      exact if_pos (decide_eq_true h)
  rw [State.status, statusByte_eq, hbusy, hfault]

/-- FAULT CAUSE reads as the cause, with FURTHER FAULTS in bit 7 (R177). -/
theorem FaultRecord.causeByte_eq (f : FaultRecord) : f.causeByte = BitVec.ofNat 8
    ((match f.cause with
        | none => 0
        | some .unassignedOffset => 1
        | some .writeToReadOnly => 2
        | some .commandOverrun => 3
        | some .commandInPurge => 4) + if f.further = true then 128 else 0) := by
  unfold FaultRecord.causeByte
  rcases f.cause with _ | _ | _ | _ | _ <;> cases f.further <;> decide

/-- A take returns the kind of the head notice, or NONE (R138, R181). -/
theorem takenKind_eq (notices : List Notice) : takenKind notices = match notices with
    | [] => 0
    | n :: _ => match n.kind with
      | .granted => 1 | .timedOut => 2 | .withdrawn => 3 | .revoked => 4 | .warning => 5 := by
  cases notices with
  | nil => rfl
  | cons n ns => cases h : n.kind <;> simp [takenKind, h, NoticeKind.code, byteOf]

/-- The position of a kind in PENDING KINDS and in the mask (R181). -/
theorem NoticeKind.code_eq (k : NoticeKind) : k.code =
    match k with | .granted => 1 | .timedOut => 2 | .withdrawn => 3 | .revoked => 4 | .warning => 5 := by
  cases k <;> rfl

theorem NoticeKind.code_lt (k : NoticeKind) : k.code < 6 := by
  cases k <;> decide

/-- The bits of PENDING KINDS (R142). -/
theorem windowRead_pendingKinds (s : State) (st : StationId) :
    (windowRead s st 17).getLsbD 0 = (s.ctx st).resultReady
      ∧ (∀ k : NoticeKind, (windowRead s st 17).getLsbD k.code = (s.ctx st).notices.any fun n => decide (n.kind = k))
      ∧ (windowRead s st 17).getLsbD 6 = false ∧ (windowRead s st 17).getLsbD 7 = false := by
  have hread : windowRead s st 17 = (pendingKindsOf (s.ctx st).notices (s.ctx st).resultReady).setWidth 8 := rfl
  rw [hread]
  refine ⟨?_, fun k => ?_, ?_, ?_⟩
  · rw [BitVec.getLsbD_setWidth, pendingKindsOf_bit_zero]
    rfl
  · have hlt := k.code_lt
    rw [BitVec.getLsbD_setWidth, pendingKindsOf_bit_code]
    simp [show k.code < 8 by omega, beq_eq_decide]
  · simp
  · simp

/-- Settles O48: each offset is one row of the read table. -/
theorem windowReadTable : Obligations.WindowReadTable := by
  intro s st
  obtain ⟨hready, hkinds, hsix, hseven⟩ := windowRead_pendingKinds s st
  refine ⟨fun k => windowRead_stage s st ⟨k.val, by omega⟩ k.isLt, rfl, rfl, rfl, rfl, rfl, rfl, s.status_eq st,
    takenKind_eq _, rfl, rfl, rfl, rfl, rfl, ⟨hready, fun k => ?_, hsix, hseven⟩, FaultRecord.causeByte_eq _, rfl, rfl,
    rfl, fun off h => windowRead_unassigned s st off h⟩
  have hbit := hkinds k
  rw [NoticeKind.code_eq k] at hbit
  exact hbit

/-! ### Reads -/

/-- A read access outside RESET. -/
theorem exec_read {s : State} {row : Instr} (st : StationId) (off : Offset) (hreset : s.resetPin = false)
    (hrow : exec row s = unlessReset s (busRead st off)) :
    exec row s = .next ((readEffect s st off).drive (windowRead s st off)) := by
  rw [hrow, unlessReset_low _ _ hreset, busRead]

/-- A take of an empty queue leaves all as it was (R138). -/
theorem readEffect_take_nil {s : State} {st : StationId} (h : (s.ctx st).notices = []) :
    readEffect s st Config.offNoticeTake = s := by
  have hkept : (s.ctx st).take = s.ctx st := by simp [Station.take, h]
  exact s.modifyCtx_self st Station.take hkept

/-- A take moves the head's name and detail into the notice window (R138). -/
theorem readEffect_take_cons {s : State} {st : StationId} {n : Notice} {ns : List Notice}
    (h : (s.ctx st).notices = n :: ns) : readEffect s st Config.offNoticeTake =
      s.modifyCtx st fun x => { x with windowName := n.name, windowDetail := n.detail, notices := ns } :=
  s.modifyCtx_congr st Station.take _ (by simp [Station.take, h])

/-- Settles O45. -/
theorem readsWithSideEffects : Obligations.ReadsWithSideEffects := by
  intro s st hreset
  have htake : exec (.noticeTake st) s = .next ((readEffect s st Config.offNoticeTake).drive
      (takenKind (s.ctx st).notices)) := exec_read st Config.offNoticeTake hreset rfl
  refine ⟨exec_read st Config.offResult hreset rfl,
    ⟨s.status st, exec_read st Config.offStatus hreset rfl, s.status_eq st⟩, s.hasWait_iff st, fun h => ?_,
    fun n ns h => ?_⟩
  · rw [htake, readEffect_take_nil h, takenKind_eq, h]
    rfl
  · rw [htake, readEffect_take_cons h, takenKind_eq, h]
    rfl

/-! ### Writes -/

/-- A write access outside RESET. -/
theorem exec_write {s : State} {row : Instr} (st : StationId) (off : Offset) (v : Byte) (hreset : s.resetPin = false)
    (hrow : exec row s = unlessReset s (busWrite st off v)) : exec row s = .next (writeEffect s st off v).release := by
  rw [hrow, unlessReset_low _ _ hreset, busWrite]

/-- What a fault makes of a fault record, in the words of R126. -/
theorem FaultRecord.add_eq (f : FaultRecord) (cause : FaultCause) (detail : Byte) :
    f.add cause detail = faultAfter f cause detail := by
  obtain ⟨old, d, further⟩ := f
  cases old <;> rfl

theorem State.recordFault_eq (s : State) (st : StationId) (cause : FaultCause) (detail : Byte) :
    s.recordFault st cause detail = s.modifyCtx st fun x => { x with fault := faultAfter x.fault cause detail } := by
  simp only [State.recordFault, FaultRecord.add_eq]

theorem writeEffect_stage (s : State) (st : StationId) (k : Fin 4) (v : Byte) :
    writeEffect s st ⟨k.val, by omega⟩ v = s.modifyCtx st fun x => { x with stage := x.stage.set k v } := dif_pos k.isLt

theorem writeEffect_command (s : State) (st : StationId) (v : Byte) : writeEffect s st 4 v = commandWrite s st v := rfl

/-- The offsets that can only be read (R176). -/
theorem writeEffect_readOnly (s : State) (st : StationId) (off : Offset) (v : Byte)
    (h : off.val ∈ [5, 6, 7, 8, 9, 10, 11, 12, 13, 14, 17, 19, 20, 21]) :
    writeEffect s st off v = s.recordFault st .writeToReadOnly (byteOf off.val) := by
  have key : ∀ off : Offset, off.val ∈ [5, 6, 7, 8, 9, 10, 11, 12, 13, 14, 17, 19, 20, 21] → ¬ off.val < 4
      ∧ off ≠ Config.offCommand ∧ off ≠ Config.offMaskSet ∧ off ≠ Config.offMaskClear ∧ off ≠ Config.offFaultCause
      ∧ ¬ Config.firstUnassigned ≤ off.val := by decide
  obtain ⟨hstage, hcommand, hset, hclear, hcause, hassigned⟩ := key off h
  rw [writeEffect, dif_neg hstage, if_neg hcommand, if_neg hset, if_neg hclear, if_neg hcause, if_neg hassigned]

/-- A write to an offset from 22 to 31 (R177). -/
theorem writeEffect_unassigned (s : State) (st : StationId) (off : Offset) (v : Byte) (h : 22 ≤ off.val) :
    writeEffect s st off v = s.recordFault st .unassignedOffset (byteOf off.val) := by
  have key : ∀ off : Offset, 22 ≤ off.val → ¬ off.val < 4
      ∧ off ≠ Config.offCommand ∧ off ≠ Config.offMaskSet ∧ off ≠ Config.offMaskClear ∧ off ≠ Config.offFaultCause
      ∧ Config.firstUnassigned ≤ off.val := by decide
  obtain ⟨hstage, hcommand, hset, hclear, hcause, hunassigned⟩ := key off h
  rw [writeEffect, dif_neg hstage, if_neg hcommand, if_neg hset, if_neg hclear, if_neg hcause, if_pos hunassigned]

/-- A read of an offset from 22 to 31 (R177). -/
theorem readEffect_unassigned (s : State) (st : StationId) (off : Offset) (h : 22 ≤ off.val) :
    readEffect s st off = s.recordFault st .unassignedOffset (byteOf off.val) := by
  have key : ∀ off : Offset, 22 ≤ off.val → off ≠ Config.offResult ∧ off ≠ Config.offStatus
      ∧ off ≠ Config.offNoticeTake ∧ Config.firstUnassigned ≤ off.val := by decide
  obtain ⟨hresult, hstatus, htake, hunassigned⟩ := key off h
  rw [readEffect, if_neg hresult, if_neg hstatus, if_neg htake, if_pos hunassigned]

/-- A COMMAND write into an EMPTY slot of a station that is not PURGING is captured (R114). -/
theorem commandWrite_captured {s : State} {st : StationId} (v : Byte) (hslot : (s.ctx st).slot = .empty)
    (hlife : (s.ctx st).life ≠ .purging) : commandWrite s st v = s.modifyCtx st fun x => x.capture v := by
  rw [commandWrite, hslot, if_neg (by simp [CommandSlot.hasWork]), if_neg hlife]

theorem commandWrite_overrun {s : State} {st : StationId} (v : Byte) (hslot : (s.ctx st).slot ≠ .empty) :
    commandWrite s st v = s.recordFault st .commandOverrun v :=
  if_pos ((CommandSlot.hasWork_eq_true _).mpr hslot)

theorem commandWrite_inPurge {s : State} {st : StationId} (v : Byte) (hslot : (s.ctx st).slot = .empty)
    (hlife : (s.ctx st).life = .purging) : commandWrite s st v = s.recordFault st .commandInPurge v := by
  rw [commandWrite, hslot, if_neg (by simp [CommandSlot.hasWork]), if_pos hlife]

/-- Settles O46. -/
theorem writesStoreCaptureAndMask : Obligations.WritesStoreCaptureAndMask := by
  intro s st v hreset
  have hcommand : exec (.windowWrite st 4 v) s = .next (commandWrite s st v).release := exec_write st 4 v hreset rfl
  refine ⟨fun k => ?stage, fun hslot hlife => ?captured, fun hslot => ?overrun, fun hslot hlife => ?inPurge,
    ⟨maskSetBy (s.ctx st).mask v, fun b => ?setBits, ?set⟩, ⟨maskClearBy (s.ctx st).mask v, fun b => ?clearBits, ?clear⟩⟩
  case stage =>
    rw [exec_write st ⟨k.val, by omega⟩ v hreset rfl, writeEffect_stage]
    rfl
  case captured =>
    rw [hcommand, commandWrite_captured v hslot hlife]
    rfl
  case overrun =>
    rw [hcommand, commandWrite_overrun v hslot, State.recordFault_eq]
    rfl
  case inPurge =>
    rw [hcommand, commandWrite_inPurge v hslot hlife, State.recordFault_eq]
    rfl
  case setBits => simp [maskSetBy]
  case set => exact exec_write st Config.offMaskSet v hreset rfl
  case clearBits => simp [maskClearBy]
  case clear => exact exec_write st Config.offMaskClear v hreset rfl

/-- Settles O47. -/
theorem windowFaultsRecordedAndCleared : Obligations.WindowFaultsRecordedAndCleared := by
  intro s st off v hreset
  refine ⟨fun h => ⟨?read, ?write⟩, fun h => ?readOnly, exec_write st Config.offFaultCause v hreset rfl⟩
  case read =>
    rw [exec_read st off hreset rfl, readEffect_unassigned s st off h, windowRead_unassigned s st off h, State.recordFault_eq]
    rfl
  case write =>
    rw [exec_write st off v hreset rfl, writeEffect_unassigned s st off v h, State.recordFault_eq]
    rfl
  case readOnly =>
    rw [exec_write st off v hreset rfl, writeEffect_readOnly s st off v h, State.recordFault_eq]
    rfl

end Sys2Proof.Machine
end

section
/-!
SUPPORT. The step, and what every event leaves of the queue of commands, the data pins and the level of RESET. With it, O1 to
O6, O9, O50 and O53.
-/

namespace Sys2Proof.Machine

/-! ### The step -/

/-- Settles O1. -/
theorem stepTakesFrontCommand : Obligations.StepTakesFrontCommand := fun _ _ _ => rfl

theorem step_of_pending_nil {s : State} (h : s.pending = []) : step s = unlessReset s State.clockPeriod := by
  unfold step
  rw [h]

theorem LeaseUnit.period_eq (u : LeaseUnit) : u.period = 1024 * (u.p.toNat + 1) := rfl

theorem State.clockPeriod_stopped {s : State} (h : s.lease.running = false) : s.clockPeriod = s := by
  simp [State.clockPeriod, h]

/-- A CLK period that does not complete the prescaler's count (R71). -/
theorem State.clockPeriod_counts {s : State} (h : s.lease.running = true)
    (hcount : s.lease.count + 1 < 1024 * (s.lease.p.toNat + 1)) : s.clockPeriod = s.setPrescaler (s.lease.count + 1) := by
  rw [State.clockPeriod, if_pos h, if_neg (by rw [LeaseUnit.period_eq]; omega)]

/-- The CLK period that completes the prescaler's count makes the tick (R71). -/
theorem State.clockPeriod_ticks {s : State} (h : s.lease.running = true)
    (hcount : 1024 * (s.lease.p.toNat + 1) ≤ s.lease.count + 1) : s.clockPeriod = s.tick := by
  rw [State.clockPeriod, if_pos h, if_pos (by rwa [LeaseUnit.period_eq])]

/-- Settles O2. -/
theorem idleStepIsOneClkPeriod : Obligations.IdleStepIsOneClkPeriod := by
  intro s hp
  rw [step_of_pending_nil hp]
  split
  · next h =>
    rcases h with hreset | hstopped
    · exact unlessReset_high _ _ hreset
    · rw [unlessReset_next, State.clockPeriod_stopped hstopped, ite_self]
  · next h =>
    obtain ⟨hlow, hrunning⟩ := not_or.mp h
    rw [unlessReset_low _ _ (Bool.eq_false_iff.mpr hlow)]
    have hrunning := Bool.eq_true_of_not_eq_false hrunning
    split
    · next hcount => rw [State.clockPeriod_counts hrunning hcount]; rfl
    · next hcount => rw [State.clockPeriod_ticks hrunning (not_lt.mp hcount)]; rfl

/-! ### The ticks -/

theorem nextTick_running {s : State} (h : s.lease.running = true) : s.nextTick = s.tick := if_pos h

theorem nextTick_stopped {s : State} (h : s.lease.running = false) : s.nextTick = s := by
  simp [State.nextTick, h]

theorem exec_leaseTick {s : State} (hreset : s.resetPin = false) (h : s.lease.running = true) :
    exec .leaseTick s = .next s.tick := by
  rw [← nextTick_running h]
  exact unlessReset_low _ _ hreset

/-- The count that the prescaler has reached does not show in the tick, which starts it again (R71). -/
theorem tick_setPrescaler (s : State) (n : Nat) : (s.setPrescaler n).tick = s.tick := rfl

theorem run_succ (M : Host.Core) {s t : M.State} {n : Nat} (h : M.step s = .next t) : M.run (n + 1) s = M.run n t := by
  rw [Host.Core.run, h]

/-- Settles O3, by induction on the CLK periods left: each but the last raises the count, and the last makes the tick. -/
theorem leaseTickIsRemainingClkPeriods : Obligations.LeaseTickIsRemainingClkPeriods := by
  intro s n
  induction n generalizing s with
  | zero => exact fun _ _ _ h _ => absurd h (lt_irrefl 0)
  | succ n ih =>
    intro hp hreset hrunning _ hcount
    have hstep : core.step s = .next s.clockPeriod :=
      (step_of_pending_nil hp).trans (unlessReset_low _ _ hreset)
    rw [exec_leaseTick hreset hrunning, run_succ core hstep]
    rcases Nat.eq_zero_or_pos n with rfl | hpos
    · rw [State.clockPeriod_ticks hrunning (by omega)]
      rfl
    · rw [State.clockPeriod_counts hrunning (by omega), ← tick_setPrescaler s (s.lease.count + 1),
        ← exec_leaseTick (s := s.setPrescaler (s.lease.count + 1)) hreset hrunning]
      exact ih (s.setPrescaler (s.lease.count + 1)) hp hreset hrunning hpos (by
        rw [State.setPrescaler_lease]
        dsimp only
        omega)

/-! ### RESET -/

/-- No row but RESET's does anything while RESET is high (R183). -/
theorem exec_of_reset {row : Instr} {s : State} (hreset : s.resetPin = true) (hrow : ∀ b, row ≠ .reset b) :
    exec row s = .next s := by
  cases row with
  | reset b => exact absurd rfl (hrow b)
  | _ => exact unlessReset_high _ _ hreset

/-- Settles O5. -/
theorem resetHoldsAndRestores : Obligations.ResetHoldsAndRestores :=
  ⟨fun _ => rfl, fun _ => rfl, fun _ _ hreset hrow => exec_of_reset hreset hrow, fun _ hreset hp => by
    rw [step_of_pending_nil hp, unlessReset_high _ _ hreset]⟩

theorem State.ctx_reset (st : StationId) : State.reset.ctx st = Station.reset := by
  simp [State.ctx, State.reset]

theorem State.holdingCount_reset (st : StationId) : State.reset.holdingCount st = 0 := by
  simp [State.holdingCount, State.reset]

theorem State.lineLow_reset (st : StationId) : State.reset.lineLow st = false := by
  simp [State.lineLow, State.ctx_reset, Station.reset]

theorem State.hasWait_reset (st : StationId) : State.reset.hasWait st = false := by
  refine Bool.eq_false_iff.mpr fun h => ?_
  obtain ⟨i, r, hr, -⟩ := (State.reset.hasWait_iff st).mp h
  rw [State.record_reset] at hr
  exact absurd hr (Option.not_mem_none r)

/-- Every assigned offset reads 0 in a context that is as after reset (R111, R176). -/
theorem windowRead_reset (st : StationId) (off : Offset) (h : ¬ 22 ≤ off.val) : windowRead State.reset st off = 0 := by
  have hstatus : State.reset.status st = 0 := by
    rw [State.status, State.ctx_reset, State.lineLow_reset, State.hasWait_reset]
    rfl
  have hkinds : State.reset.pendingKinds st = 0 := by
    rw [State.pendingKinds, State.ctx_reset]
    rfl
  unfold windowRead
  rw [State.ctx_reset, hstatus, hkinds, State.holdingCount_reset]
  obtain ⟨n, hn⟩ := off
  change ¬ 22 ≤ n at h
  clear hstatus hkinds
  interval_cases n <;> rfl

/-- Settles O6. -/
theorem windowsAfterReset : Obligations.WindowsAfterReset := by
  refine ⟨fun st off => ?_, State.lineLow_reset, ?_, rfl, State.record_reset, rfl, rfl, rfl, rfl, rfl, fun k => ?_⟩
  · split
    · next h => exact windowRead_unassigned _ st off h
    · next h => exact windowRead_reset st off h
  · exact (State.reset.arbiter_eq_none).mpr fun a => by rw [State.ctx_reset]; rfl
  · simp [State.leaseClass, State.reset]

/-- Settles O53. -/
theorem lawsAfterReset : Obligations.LawsAfterReset :=
  ⟨everyRecord_reset _, tableLaw_reset, countsLaw_reset, noticesLaw_reset, noCycleLaw_reset, holdingsLaw_reset,
    unitLaw_reset, queuesLaw_reset⟩

/-! ### Rows that are no event -/

theorem unlessReset_of_fixed {s : State} {f : State → State} (h : f s = s) : unlessReset s f = .next s := by
  rw [unlessReset_next, h, ite_self]

/-- An engine row that is not the next turn changes nothing (log entry 2). -/
theorem exec_of_notDue {row : Instr} {s : State} (hrow : turnStation row ≠ none) (hdue : s.turnDue ≠ some row) :
    exec row s = .next s := by
  obtain ⟨st, hst⟩ := Option.ne_none_iff_exists'.mp hrow
  obtain ⟨turn, hturn, hexec⟩ := exec_servedWhenDue hst
  rw [hexec, unlessReset_of_fixed (hturn.idle s hdue)]

theorem exec_leaseExpiry_of_notDue {s : State} {st : StationId} {i : SlotId} (h : s.expiryDue st i = false) :
    exec (.leaseExpiry st i) s = .next s :=
  unlessReset_of_fixed (by rw [h]; rfl)

theorem exec_waitTimeOut_of_notDue {s : State} {st : StationId} (h : s.timeOutDue st = false) :
    exec (.waitTimeOut st) s = .next s :=
  unlessReset_of_fixed (by rw [h]; rfl)

/-- The next tick expires no holding of a lease of 2 or more (R81). -/
theorem State.expiryDue_eq_false {s : State} {st : StationId} {i : SlotId}
    (h : ∀ r ∈ s.record i, ∀ h ∈ r.holding st, ∀ n ∈ h.lease, 2 ≤ n) : s.expiryDue st i = false := by
  unfold State.expiryDue
  split
  · rfl
  · next r hr =>
    refine Bool.eq_false_iff.mpr fun hexp => ?_
    obtain ⟨g, hg, n, hn, hle⟩ := (r.expiresAt_iff st).mp hexp
    have hlease := h r hr g hg n hn
    omega

theorem Deadline.expires_iff (d : Deadline) : d.expires = true ↔ ∃ n, d = .ticks n ∧ n ≤ 1 := by
  cases d <;> simp [Deadline.expires]

/-- What times a station's wait out at the next tick: a deadline of 1 at most, and no expiry of its own holding under an
upgrade wait (R56, R67). -/
theorem State.timeOutDue_eq_false {s : State} {st : StationId}
    (h : ∀ i, ∀ r ∈ s.record i, ∀ w ∈ r.queue, w.station = st →
      w.deadline = .unlimited ∨ (∃ n, w.deadline = .ticks n ∧ 2 ≤ n) ∨ (w.request = .upgrade ∧ r.Expiring st)) :
    s.timeOutDue st = false := by
  unfold State.timeOutDue
  split
  · rfl
  · next i r w hw =>
    obtain ⟨hr, hmem, hst⟩ := s.waitOf_spec st i r w hw
    rw [Bool.and_eq_false_iff]
    rcases h i r hr w hmem hst with hd | ⟨n, hd, hn⟩ | ⟨hup, hexp⟩
    · exact .inl (by rw [hd]; rfl)
    · exact .inl (by rw [hd]; exact decide_eq_false (by omega))
    · exact .inr (by simp [hup, (r.expiresAt_iff st).mpr hexp])

/-- Settles O9. -/
theorem eventNotDueChangesNothing : Obligations.EventNotDueChangesNothing := by
  refine ⟨fun s i hi hdue => exec_of_notDue hi hdue,
    fun s st i h => exec_leaseExpiry_of_notDue (State.expiryDue_eq_false h),
    fun s st h => exec_waitTimeOut_of_notDue (State.timeOutDue_eq_false h),
    fun s st h => exec_waitTimeOut_of_notDue (State.timeOutDue_eq_false fun i r hr w hw hst =>
      absurd ⟨i, r, hr, w, hw, hst⟩ h),
    fun s st i h => ?_⟩
  have hkept := nextTick_stopped h
  exact ⟨unlessReset_of_fixed hkept, unlessReset_of_fixed (by rw [hkept, ite_self]),
    unlessReset_of_fixed (by rw [hkept, ite_self])⟩

/-! ### Accesses -/

/-- A row that is an access is neither a turn, a tick nor RESET's. -/
theorem not_turn_of_access {row : Instr} {st : StationId} (h : accessStation row = some st) :
    turnStation row = none ∧ isTick row = false ∧ ∀ b, row ≠ .reset b := by
  cases row <;> simp [accessStation, turnStation, isTick] at *

/-- The side effect of a read is one change of the station's context (R91). -/
theorem readEffect_eq_modifyCtx (s : State) (st : StationId) (off : Offset) :
    ∃ f : Station → Station, readEffect s st off = s.modifyCtx st f := by
  unfold readEffect State.recordFault
  split_ifs
  · exact ⟨_, rfl⟩
  · exact ⟨_, rfl⟩
  · exact ⟨_, rfl⟩
  · exact ⟨_, rfl⟩
  · exact ⟨id, (s.modifyCtx_self st id rfl).symm⟩

/-- The effect of a write is one change of the station's context (R91). -/
theorem writeEffect_eq_modifyCtx (s : State) (st : StationId) (off : Offset) (v : Byte) :
    ∃ f : Station → Station, writeEffect s st off v = s.modifyCtx st f := by
  unfold writeEffect commandWrite State.recordFault
  split_ifs <;> exact ⟨_, rfl⟩

/-- An access changes one context and the data pins (R91, R127). -/
theorem Event.of_access {row : Instr} {s t : State} {st : StationId} (h : Event row s t)
    (hrow : accessStation row = some st) : ∃ (f : Station → Station) (pins : Option Byte),
      t = { s.modifyCtx st f with dataPins := pins } := by
  obtain ⟨hturn, htick, hreset⟩ := not_turn_of_access hrow
  cases h with
  | idle => exact ⟨id, s.dataPins, by rw [s.modifyCtx_self st id rfl]⟩
  | completed hst => exact absurd (hst.symm.trans hturn) (by simp)
  | detached => exact absurd hturn (by simp [turnStation])
  | purged => exact absurd hturn (by simp [turnStation])
  | walked => exact absurd ((turnStation_row _ _).symm.trans hturn) (by simp)
  | ticked ht => exact absurd (ht.symm.trans htick) (by simp)
  | @read _ a off _ hst =>
    obtain rfl := Option.some.inj (hst.symm.trans hrow)
    obtain ⟨f, hf⟩ := readEffect_eq_modifyCtx s a off
    exact ⟨f, some (windowRead s a off), by rw [busRead, hf]; rfl⟩
  | @write _ a off v _ hst =>
    obtain rfl := Option.some.inj (hst.symm.trans hrow)
    obtain ⟨f, hf⟩ := writeEffect_eq_modifyCtx s a off v
    exact ⟨f, none, by rw [busWrite, hf]; rfl⟩
  | resetHigh => exact absurd rfl (hreset true)
  | resetLow => exact absurd rfl (hreset false)

/-- Settles O50. -/
theorem accessReachesOneContext : Obligations.AccessReachesOneContext := by
  intro s t st i off v written hi h
  have hrow : accessStation i = some st := by
    simp only [List.mem_cons, List.not_mem_nil, or_false] at hi
    rcases hi with rfl | rfl | rfl | rfl | rfl | rfl | rfl | rfl <;> rfl
  obtain ⟨f, pins, rfl⟩ := (exec_event h).of_access hrow
  have hctx : ({ s.modifyCtx st f with dataPins := pins } : State).ctx st = f (s.ctx st) := s.ctx_modifyCtx_same st f
  rw [hctx]
  rfl

/-! ### The queue of commands, the data pins and the level of RESET -/

/-- The fields outside the part's own state: the queue of waiting commands, the data pins and the level of the RESET pin. -/
def State.outside (s : State) : List Instr × Option Byte × Bool := (s.pending, s.dataPins, s.resetPin)

@[simp] theorem outside_settle (s : State) (i : SlotId) : (s.settle i).outside = s.outside := by
  simp [State.outside]

@[simp] theorem outside_endWait (s : State) (st : StationId) : (s.endWait st).outside = s.outside := by
  simp [State.outside]

@[simp] theorem outside_storeAmended (s : State) (i : SlotId) (r : Record) : (s.storeAmended i r).outside = s.outside := by
  simp [State.storeAmended, State.outside]

@[simp] theorem outside_tick (s : State) : s.tick.outside = s.outside := by
  simp [State.tick, State.outside]

theorem outside_walkStep (st : StationId) (c : Captured) (w : Walk) (s : State) :
    (walkStep st c w s).outside = s.outside := by
  have heffect : (walkEffect w s).1.outside = s.outside := by simp [State.outside]
  unfold walkStep
  dsimp only
  split
  · exact heffect
  · exact heffect

/-- The work of a command leaves the queue of commands, the data pins and RESET. -/
theorem Work.outside {row : Instr} {s t : State} (h : Work row s t) : t.outside = s.outside := by
  cases h with
  | released => exact outside_settle _ _
  | downgraded => exact outside_settle _ _
  | cancelled => exact outside_endWait _ _
  | adopted => exact outside_storeAmended _ _ _
  | amended => exact outside_storeAmended _ _ _
  | @classSet _ _ k e _ =>
    refine foldl_keeps (State.refitSlot k e.length) State.outside (fun u i => ?_) allSlots (s.setClass k e)
    unfold State.refitSlot
    split
    · rfl
    · split <;> rfl
  | runSet =>
    unfold State.setRunning
    split <;> rfl
  | _ => rfl

/-- A turn and a tick leave the queue of commands, the data pins and RESET. -/
theorem Event.outside {row : Instr} {s t : State} (h : Event row s t) (haccess : accessStation row = none)
    (hreset : ∀ b, row ≠ .reset b) : t.outside = s.outside := by
  cases h with
  | idle => rfl
  | completed _ _ _ hwork _ => exact hwork.outside
  | detached st c _ _ =>
    refine (outside_walkStep st c _ _).trans ?_
    exact outside_endWait (s.setLife st .detaching) st
  | purged target c _ _ _ _ =>
    refine (outside_walkStep 0 c _ _).trans ?_
    exact outside_endWait (s.modifyCtx target Station.purged) target
  | walked st c w _ => exact outside_walkStep st c w s
  | ticked _ _ => exact outside_tick s
  | read _ _ hst => exact absurd (hst.symm.trans haccess) (by simp)
  | write _ _ _ hst => exact absurd (hst.symm.trans haccess) (by simp)
  | resetHigh => exact absurd rfl (hreset true)
  | resetLow => exact absurd rfl (hreset false)

theorem Event.pending {row : Instr} {s t : State} (h : Event row s t) (hreset : ∀ b, row ≠ .reset b) :
    t.pending = s.pending := by
  cases haccess : accessStation row with
  | none => exact congrArg Prod.fst (h.outside haccess hreset)
  | some st =>
    obtain ⟨f, pins, rfl⟩ := h.of_access haccess
    rfl

/-- Settles O4. -/
theorem everyCommandAnswersNext : Obligations.EveryCommandAnswersNext := by
  intro i s
  by_cases hreset : ∃ b, i = .reset b
  · obtain ⟨b, rfl⟩ := hreset
    cases b <;> exact ⟨_, rfl, rfl⟩
  · obtain ⟨t, ht⟩ : ∃ t, exec i s = .next t := by cases i <;> exact ⟨_, rfl⟩
    exact ⟨t, ht, (exec_event ht).pending (not_exists.mp hreset)⟩

end Sys2Proof.Machine
end

section
/-!
SUPPORT. What turns and ticks make of the eight contexts, and what they leave of the configuration. With it, O8, O11, O51 and
O52.
-/

namespace Sys2Proof.Machine

/-! ### What a turn or a tick makes of a context -/

/-- The contexts agree but for the station's state, its notices and its cursor. -/
def Station.Quiet (x y : Station) : Prop :=
  y = { x with life := y.life, notices := y.notices, noticeLost := y.noticeLost, cursor := y.cursor }

theorem Station.Quiet.refl (x : Station) : x.Quiet x := rfl

theorem Station.Quiet.trans {x y z : Station} (h : x.Quiet y) (k : y.Quiet z) : x.Quiet z := by
  unfold Station.Quiet at *
  rw [k, h]

theorem SameButNotices.quiet {x y : Station} (h : SameButNotices x y) : x.Quiet y := by
  unfold SameButNotices at h
  rw [h]
  rfl

/-- The work of a command leaves each context but for the station's state, its notices and its cursor. -/
theorem Work.quiet {row : Instr} {s t : State} (h : Work row s t) (a : StationId) : (s.ctx a).Quiet (t.ctx a) := by
  rcases h.ctx a with hsame | ⟨-, -, ha⟩ | ⟨-, cur, ha⟩
  · exact hsame.quiet
  · rw [ha]
    rfl
  · rw [ha]
    rfl

/-- What a turn or a tick of the row makes of the context of a station: what the station typed and took stays; its fault
record and mask stay, or a PURGE clears them; its result stays, or the slot is EMPTY and the result its own command's or a
PURGE's; and work in its slot stays, but in its own turn and under a PURGE. -/
structure Station.Served (row : Instr) (a : StationId) (x y : Station) : Prop where
  stage : y.stage = x.stage
  lastCode : y.lastCode = x.lastCode
  windowName : y.windowName = x.windowName
  windowDetail : y.windowDetail = x.windowDetail
  guarded : (y.fault = x.fault ∧ y.mask = x.mask)
    ∨ (row = .purge 0 ∧ x.life = .online ∧ y.life = .purging ∧ y.fault = ⟨none, 0, false⟩ ∧ y.mask = 0)
  result : y.result = x.result ∨ (y.slot = .empty ∧ (turnStation row = some a ∨ (row = .purge 0 ∧ y.life = .purging)))
  slot : y.slot = x.slot ∨ turnStation row = some a ∨ y.life = .purging

section Served

variable {row : Instr} {a : StationId} {x y : Station}

theorem Station.Quiet.served (h : x.Quiet y) : Station.Served row a x y := by
  unfold Station.Quiet at h
  rw [h]
  exact ⟨rfl, rfl, rfl, rfl, .inl ⟨rfl, rfl⟩, .inl rfl, .inl rfl⟩

/-- The command of the station's own slot completes (R123). -/
theorem Station.Quiet.completed (h : x.Quiet y) (hrow : turnStation row = some a) (r : Result) :
    Station.Served row a x { y with result := r, resultReady := true, slot := .empty } := by
  unfold Station.Quiet at h
  rw [h]
  exact ⟨rfl, rfl, rfl, rfl, .inl ⟨rfl, rfl⟩, .inr ⟨rfl, .inl hrow⟩, .inr (.inl hrow)⟩

/-- The station's own slot carries a walk (R99). -/
theorem Station.Quiet.carried (h : x.Quiet y) (hrow : turnStation row = some a) (c : Captured) (w : Walk) :
    Station.Served row a x { y with slot := .executing c w } := by
  unfold Station.Quiet at h
  rw [h]
  exact ⟨rfl, rfl, rfl, rfl, .inl ⟨rfl, rfl⟩, .inl rfl, .inr (.inl hrow)⟩

/-- The station is made PURGING (R105). -/
theorem Station.served_purged (hlife : x.life = .online) :
    Station.Served (.purge 0) a x { x.purged with life := .purging } :=
  ⟨rfl, rfl, rfl, rfl, .inr ⟨rfl, hlife, rfl, rfl, rfl⟩, .inr ⟨rfl, .inr ⟨rfl, rfl⟩⟩, .inr (.inr rfl)⟩

end Served

section Contexts

variable {s : State} {st : StationId} {c : Captured} {w : Walk}

theorem ctx_complete (s : State) (st a : StationId) (r : Result) :
    (s.complete st r).ctx a =
      if a = st then { s.ctx st with result := r, resultReady := true, slot := .empty } else s.ctx a :=
  State.ctx_modifyCtx s st a _

theorem ctx_carryWalk (s : State) (st a : StationId) (c : Captured) (w : Walk) :
    (s.carryWalk st c w).ctx a = if a = st then { s.ctx st with slot := .executing c w } else s.ctx a :=
  State.ctx_modifyCtx s st a _

theorem quiet_setLife (s : State) (b : StationId) (l : Life) (a : StationId) : (s.ctx a).Quiet ((s.setLife b l).ctx a) := by
  rw [State.setLife, State.ctx_modifyCtx]
  split
  · next e =>
    subst e
    rfl
  · exact .refl _

/-- A completion, at every station: its own slot's command completes, and the others' contexts are as the work left them. -/
theorem served_complete {row : Instr} {u : State} (hrow : turnStation row = some st) (r : Result) (a : StationId)
    (h : (s.ctx a).Quiet (u.ctx a)) : Station.Served row a (s.ctx a) ((u.complete st r).ctx a) := by
  rw [ctx_complete]
  split
  · next e =>
    subst e
    exact h.completed hrow r
  · exact h.served

theorem served_carryWalk {row : Instr} {u : State} (hrow : turnStation row = some st) (c : Captured) (w : Walk)
    (a : StationId) (h : (s.ctx a).Quiet (u.ctx a)) : Station.Served row a (s.ctx a) ((u.carryWalk st c w).ctx a) := by
  rw [ctx_carryWalk]
  split
  · next e =>
    subst e
    exact h.carried hrow c w
  · exact h.served

theorem served_walkStep {row : Instr} (hrow : turnStation row = some st) (c : Captured) (w : Walk) (s : State)
    (a : StationId) : Station.Served row a (s.ctx a) ((walkStep st c w s).ctx a) := by
  have heffect := (walkEffect_same w s a).quiet
  by_cases hp : w.position = 63
  · rw [walkStep_of_last st c s hp]
    exact served_complete hrow _ a (heffect.trans (quiet_setLife _ w.target .offline a))
  · rw [walkStep_of_not_last st c s hp]
    exact served_carryWalk hrow c _ a heffect

/-- The first turn of a walk leaves every context but its target's, and its carrier's slot, but for notices (R98, R106). -/
theorem firstStep_same (k : WalkKind) {b : StationId} {f g : Station → Station} {a : StationId} (ha : a ≠ b) :
    SameButNotices (s.ctx a) ((firstStep k b f g s).ctx a) := by
  have hprepared : (s.modifyCtx b f).ctx a = s.ctx a := s.ctx_modifyCtx_ne b a f ha
  have hset : (((s.modifyCtx b f).endWait b).modifyCtx b g).ctx a = ((s.modifyCtx b f).endWait b).ctx a :=
    State.ctx_modifyCtx_ne _ b a g ha
  have hended := (s.modifyCtx b f).endWait_same b a
  rw [← hset, hprepared] at hended
  exact hended.trans (walkEffect_same _ _ a)

/-- The part when the first turn of a DETACH has taken its step, but for the slot that then carries the walk (R98). -/
def State.detachBegun (s : State) (st : StationId) : State :=
  firstStep .detach st (fun x => { x with life := .detaching }) (fun x => { x with notices := [], cursor := none }) s

/-- The part when the first turn of a PURGE has taken its step, but for the slot that then carries the walk (R105, R106). -/
def State.purgeBegun (s : State) (target : StationId) : State :=
  firstStep .purge target Station.purged (fun x => { x with life := .purging }) s

theorem detachFirstTurn_carries (st : StationId) (c : Captured) (s : State) :
    ∃ w, w.kind = .detach ∧ detachFirstTurn st c s = (s.detachBegun st).carryWalk st c w := by
  obtain ⟨w, hkind, -, -, hcarry⟩ := firstTurn_carries .detach st st c (fun x => { x with life := .detaching })
    (fun x => { x with notices := [], cursor := none }) s
  exact ⟨w, hkind, hcarry⟩

theorem purgeFirstTurn_carries (st target : StationId) (c : Captured) (s : State) :
    ∃ w, w.kind = .purge ∧ purgeFirstTurn st target c s = (s.purgeBegun target).carryWalk st c w := by
  obtain ⟨w, hkind, -, -, hcarry⟩ := firstTurn_carries .purge target st c Station.purged
    (fun x => { x with life := .purging }) s
  exact ⟨w, hkind, hcarry⟩

theorem ctx_purgeBegun (s : State) (target : StationId) :
    (s.purgeBegun target).ctx target = { (s.ctx target).purged with life := .purging } :=
  ctx_firstStep_target .purge (by simp)

theorem quiet_detachBegun (s : State) (st a : StationId) : (s.ctx a).Quiet ((s.detachBegun st).ctx a) := by
  unfold State.detachBegun
  by_cases ha : a = st
  · subst ha
    rw [ctx_firstStep_target .detach (by simp)]
    rfl
  · exact (firstStep_same .detach ha).quiet

/-- A turn and a tick serve every context. -/
theorem Event.served {row : Instr} {s t : State} (h : Event row s t) (haccess : accessStation row = none)
    (hreset : ∀ b, row ≠ .reset b) (a : StationId) : Station.Served row a (s.ctx a) (t.ctx a) := by
  cases h with
  | idle => exact (Station.Quiet.refl _).served
  | completed hst _ _ hwork _ => exact served_complete hst _ a (hwork.quiet a)
  | detached st c _ _ =>
    obtain ⟨w, -, hcarry⟩ := detachFirstTurn_carries st c s
    rw [State.ctx_endTurn, hcarry]
    exact served_carryWalk rfl c w a (quiet_detachBegun s st a)
  | purged target c _ _ h0 honline =>
    obtain ⟨w, -, hcarry⟩ := purgeFirstTurn_carries 0 target c s
    rw [State.ctx_endTurn, hcarry]
    by_cases ha : a = target
    · subst ha
      rw [ctx_carryWalk_ne _ 0 a c w h0, ctx_purgeBegun]
      exact Station.served_purged (by simpa [State.online] using honline)
    · exact served_carryWalk rfl c w a (firstStep_same .purge ha).quiet
  | walked st c w _ => exact served_walkStep (turnStation_row st w.kind) c w s a
  | ticked _ _ =>
    have hsame := (s.setPrescaler 0).tickTable_same a
    exact hsame.quiet.served
  | read _ _ hst => exact absurd (hst.symm.trans haccess) (by simp)
  | write _ _ _ hst => exact absurd (hst.symm.trans haccess) (by simp)
  | resetHigh => exact absurd rfl (hreset true)
  | resetLow => exact absurd rfl (hreset false)

end Contexts

/-! ### A slot with work -/

/-- A read leaves every slot. -/
theorem slot_busRead (st : StationId) (off : Offset) (s : State) (a : StationId) :
    ((busRead st off s).ctx a).slot = (s.ctx a).slot := by
  have key (f : Station → Station) (hf : ∀ x, (f x).slot = x.slot) : ((s.modifyCtx st f).ctx a).slot = (s.ctx a).slot := by
    rw [State.ctx_modifyCtx]
    split
    · next e => rw [hf, e]
    · rfl
  have htake (x : Station) : x.take.slot = x.slot := by
    unfold Station.take
    split <;> rfl
  unfold busRead readEffect State.recordFault
  rw [State.ctx_drive]
  split_ifs
  · exact key _ fun _ => rfl
  · exact key _ fun _ => rfl
  · exact key _ htake
  · exact key _ fun _ => rfl
  · rfl

/-- A write leaves every slot with work (R115). -/
theorem slot_busWrite (st : StationId) (off : Offset) (v : Byte) (s : State) (a : StationId)
    (hwork : (s.ctx a).slot ≠ .empty) : ((busWrite st off v s).ctx a).slot = (s.ctx a).slot := by
  have key (f : Station → Station) (hf : a = st → (f (s.ctx st)).slot = (s.ctx st).slot) :
      ((s.modifyCtx st f).ctx a).slot = (s.ctx a).slot := by
    rw [State.ctx_modifyCtx]
    split
    · next e => rw [hf e, e]
    · rfl
  unfold busWrite writeEffect commandWrite State.recordFault
  rw [State.ctx_release]
  split_ifs with _ _ hbusy
  case neg => exact key _ fun e => absurd ((CommandSlot.hasWork_eq_true _).mpr (e ▸ hwork)) hbusy
  all_goals exact key _ fun _ => rfl

/-- The stations that a served turn passes over come nearer to their turn (06 section 6.3). -/
theorem distance_lt_of_passed : ∀ st a p : StationId, st ≠ a → (st - p).val ≤ (a - p).val →
    (a - (st + 1)).val < (a - p).val := by
  decide

/-- Settles O8. -/
theorem slotWithWorkIsServedInRound : Obligations.SlotWithWorkIsServedInRound := by
  intro s t i a hreset hwork hnotReset h hother
  refine ⟨?kept, fun hdue => ?nearer, fun hdue => exec_turnPointer_of_notDue hdue hnotReset h⟩
  case kept =>
    by_cases hown : turnStation i = some a
    · obtain rfl := Host.Outcome.next.inj ((exec_of_notDue (by simp [hown]) (hother hown)).symm.trans h)
      exact .inl rfl
    cases haccess : accessStation i with
    | none =>
      rcases ((exec_event h).served haccess hnotReset a).slot with hkept | hturn | hpurging
      · exact .inl hkept
      · exact absurd hturn hown
      · exact .inr hpurging
    | some b =>
      obtain ⟨hturn, htick, -⟩ := not_turn_of_access haccess
      refine .inl ?_
      cases exec_event h with
      | idle => rfl
      | completed hst => exact absurd (hst.symm.trans hturn) (by simp)
      | detached => exact absurd hturn (by simp [turnStation])
      | purged => exact absurd hturn (by simp [turnStation])
      | walked => exact absurd ((turnStation_row _ _).symm.trans hturn) (by simp)
      | ticked ht => exact absurd (ht.symm.trans htick) (by simp)
      | read off _ _ => exact slot_busRead _ off s a
      | write off v _ _ => exact slot_busWrite _ off v s a hwork
      | resetHigh => exact absurd rfl (hnotReset true)
      | resetLow => exact absurd rfl (hnotReset false)
  case nearer =>
    cases hst : turnStation i with
    | none => exact absurd hdue (turnDue_ne_of_noTurn hst s)
    | some st =>
      obtain ⟨-, hleast⟩ := (s.arbiter_eq_some st).mp (State.arbiter_of_turnDue hst hdue)
      obtain ⟨u, hu, hpointer⟩ := exec_turnPointer_of_due hreset hdue hst
      obtain rfl := Host.Outcome.next.inj (hu.symm.trans h)
      rw [hpointer]
      refine distance_lt_of_passed st a s.turnPointer ?_ (hleast a hwork)
      rintro rfl
      exact hother hst hdue

/-! ### The end of a turn -/

/-- A turn completes the command of its station's slot, or that slot carries a walk (R121, R122). -/
def Station.Turned (row : Instr) (st : StationId) (x y : Station) : Prop :=
  (y.slot = .empty ∧ y.resultReady = true ∧ y.result.code ≠ .none)
    ∨ ((∃ c w, y.slot = .executing c w)
        ∧ row ∈ [Instr.detach st, .detachWalkStep st, .purge st, .purgeWalkStep st]
        ∧ y.result = x.result ∧ y.resultReady = x.resultReady)

theorem turned_complete {row : Instr} (x : Station) (u : State) (st : StationId) {r : Result} (h : r.code ≠ .none) :
    Station.Turned row st x (((u.complete st r).endTurn st).ctx st) := by
  rw [State.ctx_endTurn, ctx_complete_same]
  exact .inl ⟨rfl, rfl, h⟩

theorem turned_carryWalk {row : Instr} {x : Station} {u : State} {st : StationId} (c : Captured) (w : Walk)
    (hrow : row ∈ [Instr.detach st, .detachWalkStep st, .purge st, .purgeWalkStep st]) (h : x.Quiet (u.ctx st)) :
    Station.Turned row st x (((u.carryWalk st c w).endTurn st).ctx st) := by
  rw [State.ctx_endTurn, ctx_carryWalk_same]
  unfold Station.Quiet at h
  rw [h]
  exact .inr ⟨⟨c, w, rfl⟩, hrow, rfl, rfl⟩

theorem Walk.result_code (w : Walk) : w.result.code = .done := by
  unfold Walk.result
  split <;> rfl

/-- Settles O11. -/
theorem turnCompletesOrLeavesWalk : Obligations.TurnCompletesOrLeavesWalk := by
  intro s t i st hreset hdue hst h
  change Station.Turned i st (s.ctx st) (t.ctx st)
  cases exec_event h with
  | idle hidle => exact absurd hdue (hidle hreset)
  | @completed _ _ u a _ r ha _ _ _ hcode =>
    obtain rfl := Option.some.inj (ha.symm.trans hst)
    exact turned_complete _ u a hcode
  | detached a c _ _ =>
    obtain rfl := Option.some.inj hst
    obtain ⟨w, -, hcarry⟩ := detachFirstTurn_carries a c s
    rw [hcarry]
    exact turned_carryWalk c w (by simp) (quiet_detachBegun s a a)
  | purged target c _ _ h0 _ =>
    obtain rfl := Option.some.inj hst
    obtain ⟨w, -, hcarry⟩ := purgeFirstTurn_carries 0 target c s
    rw [hcarry]
    exact turned_carryWalk c w (by simp) (firstStep_same .purge (Ne.symm h0)).quiet
  | walked a c w _ =>
    obtain rfl := Option.some.inj ((turnStation_row a w.kind).symm.trans hst)
    by_cases hp : w.position = 63
    · rw [walkStep_of_last a c s hp]
      exact turned_complete _ _ a (by simp [Walk.result_code])
    · rw [walkStep_of_not_last a c s hp]
      exact turned_carryWalk c _ (by cases w.kind <;> simp [WalkKind.row]) (walkEffect_same w s a).quiet
  | ticked ht => exact absurd ((noTurn_of_isTick ht).symm.trans hst) (by simp)
  | read _ _ ha => exact absurd ((not_turn_of_access ha).1.symm.trans hst) (by simp)
  | write _ _ _ ha => exact absurd ((not_turn_of_access ha).1.symm.trans hst) (by simp)
  | resetHigh => exact absurd hst (by simp [turnStation])
  | resetLow => exact absurd hst (by simp [turnStation])

end Sys2Proof.Machine
end

section
/-!
SUPPORT. Which reads a turn or a tick holds, and which commands change the configuration. With it, O51 and O52.
-/

namespace Sys2Proof.Machine

/-! ### Reads that are held -/

/-- A read is held where its value changes, and a take where the queue does (R140, R174). -/
theorem readHeld_iff (s t : State) (a : StationId) (off : Offset) : readHeld s t a off = true ↔
    windowRead t a off ≠ windowRead s a off ∨ (off = 11 ∧ (t.ctx a).notices ≠ (s.ctx a).notices) := by
  simp only [readHeld, Bool.or_eq_true, bne_iff_ne, Bool.and_eq_true, beq_iff_eq, ne_comm, Config.offNoticeTake]

/-- A take is held exactly where the queue it takes from changes (R140). -/
theorem readHeld_take_iff (s t : State) (a : StationId) :
    readHeld s t a 11 = true ↔ (t.ctx a).notices ≠ (s.ctx a).notices := by
  rw [readHeld_iff]
  refine ⟨fun h => h.elim (fun hread hkept => hread ?_) And.right, fun h => .inr ⟨rfl, h⟩⟩
  exact congrArg takenKind hkept

theorem readHeld_of_ne_take (s t : State) (a : StationId) {off : Offset} (h : off ≠ 11) :
    readHeld s t a off = true ↔ windowRead t a off ≠ windowRead s a off := by
  rw [readHeld_iff]
  exact or_iff_left fun htake => h htake.1

section Served

variable {row : Instr} {s t : State} {a : StationId} {off : Offset}

theorem readHeld_eq_false (h : off ≠ 11) (hread : windowRead t a off = windowRead s a off) :
    readHeld s t a off = false :=
  Bool.eq_false_iff.mpr (mt (readHeld_of_ne_take s t a h).mp (not_not_intro hread))

/-- The offsets that only the station's own accesses change, and the unassigned ones (R113, R116, R139, R177). -/
theorem Station.Served.readHeld_typed (h : Station.Served row a (s.ctx a) (t.ctx a))
    (hoff : off.val ∈ [0, 1, 2, 3, 4, 12, 13, 14] ∨ 22 ≤ off.val) : readHeld s t a off = false := by
  rcases hoff with hmem | hun
  · simp only [List.mem_cons, List.not_mem_nil, or_false] at hmem
    have hne : off ≠ 11 := by
      rintro rfl
      revert hmem
      decide
    refine readHeld_eq_false hne ?_
    obtain ⟨n, hn⟩ := off
    dsimp only at hmem
    rcases hmem with rfl | rfl | rfl | rfl | rfl | rfl | rfl | rfl
    all_goals simp [windowRead, h.stage, h.lastCode, h.windowName, h.windowDetail]
  · have hne : off ≠ 11 := by
      rintro rfl
      exact absurd hun (by decide)
    exact readHeld_eq_false hne ((windowRead_unassigned t a off hun).trans (windowRead_unassigned s a off hun).symm)

/-- RESULT and RDATA are held only by the station's own completion or by a PURGE of it (R123, R105). -/
theorem Station.Served.readHeld_result (h : Station.Served row a (s.ctx a) (t.ctx a)) (hoff : off.val ∈ [5, 6, 7, 8, 9])
    (hheld : readHeld s t a off = true) :
    (t.ctx a).slot = .empty ∧ (turnStation row = some a ∨ (row = .purge 0 ∧ (t.ctx a).life = .purging)) := by
  refine h.result.resolve_left fun hkept => ?_
  simp only [List.mem_cons, List.not_mem_nil, or_false] at hoff
  have hne : off ≠ 11 := by
    rintro rfl
    revert hoff
    decide
  refine (readHeld_of_ne_take s t a hne).mp hheld ?_
  obtain ⟨n, hn⟩ := off
  dsimp only at hoff
  rcases hoff with rfl | rfl | rfl | rfl | rfl
  all_goals simp [windowRead, hkept]

/-- The mask and the fault record are held only by a PURGE of the station (R105). -/
theorem Station.Served.readHeld_guarded (h : Station.Served row a (s.ctx a) (t.ctx a)) (hoff : off.val ∈ [15, 16, 18, 19])
    (hheld : readHeld s t a off = true) :
    row = .purge 0 ∧ (s.ctx a).life = .online ∧ (t.ctx a).life = .purging := by
  rcases h.guarded with ⟨hfault, hmask⟩ | ⟨hrow, honline, hpurging, -, -⟩
  · simp only [List.mem_cons, List.not_mem_nil, or_false] at hoff
    have hne : off ≠ 11 := by
      rintro rfl
      revert hoff
      decide
    refine absurd ?_ ((readHeld_of_ne_take s t a hne).mp hheld)
    obtain ⟨n, hn⟩ := off
    dsimp only at hoff
    rcases hoff with rfl | rfl | rfl | rfl
    all_goals simp [windowRead, hfault, hmask]
  · exact ⟨hrow, honline, hpurging⟩

end Served

/-- A row that is a turn or one of the three of the tick is neither an access nor RESET's. -/
theorem turn_or_tick {row : Instr}
    (h : turnStation row ≠ none ∨ row = .leaseTick ∨ (∃ b p, row = .leaseExpiry b p) ∨ ∃ b, row = .waitTimeOut b) :
    accessStation row = none ∧ ∀ b, row ≠ .reset b := by
  rcases h with hturn | rfl | ⟨b, p, rfl⟩ | ⟨b, rfl⟩
  · cases row <;> simp [turnStation, accessStation] at *
  · exact ⟨rfl, by simp⟩
  · exact ⟨rfl, by simp⟩
  · exact ⟨rfl, by simp⟩

/-- Settles O51. -/
theorem turnsAndTicksRaiseNoFault : Obligations.TurnsAndTicksRaiseNoFault := by
  intro s t i a hi h
  obtain ⟨haccess, hreset⟩ := turn_or_tick hi
  have hevent := exec_event h
  have hserved := hevent.served haccess hreset a
  have houtside := congrArg Prod.snd (hevent.outside haccess hreset)
  exact ⟨hserved.stage, hserved.lastCode, hserved.windowName, hserved.windowDetail, hserved.guarded,
    congrArg Prod.fst houtside, congrArg Prod.snd houtside, readHeld_take_iff s t a,
    fun off => ⟨readHeld_of_ne_take s t a, hserved.readHeld_typed, hserved.readHeld_result, hserved.readHeld_guarded⟩⟩

/-! ### The lease unit's settings and the defaults -/

/-- Each setting stays, but by the row that sets it (09 section 9.1). -/
structure SettingsKept (row : Instr) (s t : State) : Prop where
  classes : (∀ st, row ≠ .configureClass st) → t.lease.classes = s.lease.classes
  prescaler : (∀ st, row ≠ .configurePrescaler st) → t.lease.p = s.lease.p
  running : (∀ st, row ≠ .configureTickRun st) → t.lease.running = s.lease.running
  defaults : (∀ st, row ≠ .configureDefaults st) → t.defaults = s.defaults

section Settings

variable {row : Instr} {s t u : State}

theorem SettingsKept.of_eq (hl : t.lease = s.lease) (hd : t.defaults = s.defaults) : SettingsKept row s t :=
  ⟨fun _ => by rw [hl], fun _ => by rw [hl], fun _ => by rw [hl], fun _ => hd⟩

theorem settingsKept_storeAmended (i : SlotId) (r : Record) (hl : u.lease = s.lease) (hd : u.defaults = s.defaults) :
    SettingsKept row s (u.storeAmended i r) := by
  refine .of_eq ?_ ?_
  · rw [State.storeAmended, State.settle_lease, State.queueNotices_lease, State.setRecord_lease, hl]
  · rw [State.storeAmended, State.settle_defaults, State.queueNotices_defaults, State.setRecord_defaults, hd]

theorem refitSlots_defaults (k : ClassId) (length : Byte) (s : State) :
    (allSlots.foldl (State.refitSlot k length) s).defaults = s.defaults := by
  refine foldl_keeps (State.refitSlot k length) (·.defaults) (fun u i => ?_) allSlots s
  unfold State.refitSlot
  split
  · rfl
  · split <;> rfl

theorem Work.settingsKept (h : Work row s t) : SettingsKept row s t := by
  cases h with
  | released => exact .of_eq (State.settle_lease _ _) (State.settle_defaults _ _)
  | downgraded => exact .of_eq (State.settle_lease _ _) (State.settle_defaults _ _)
  | cancelled => exact .of_eq (State.endWait_lease _ _) (State.endWait_defaults _ _)
  | adopted => exact settingsKept_storeAmended _ _ rfl rfl
  | amended => exact settingsKept_storeAmended _ _ rfl rfl
  | @classSet _ st k e _ =>
    have hlease := refitSlots_lease k e.length (s.setClass k e)
    have hdefaults := refitSlots_defaults k e.length (s.setClass k e)
    exact ⟨fun h => absurd rfl (h st), fun _ => by rw [hlease]; rfl, fun _ => by rw [hlease]; rfl, fun _ => hdefaults⟩
  | prescalerSet _ st p => exact ⟨fun _ => rfl, fun h => absurd rfl (h st), fun _ => rfl, fun _ => rfl⟩
  | runSet _ st run =>
    unfold State.setRunning
    split
    · exact ⟨fun _ => rfl, fun _ => rfl, fun h => absurd rfl (h st), fun _ => rfl⟩
    · exact ⟨fun _ => rfl, fun _ => rfl, fun h => absurd rfl (h st), fun _ => rfl⟩
  | defaultsSet _ st a => exact ⟨fun _ => rfl, fun _ => rfl, fun _ => rfl, fun h => absurd rfl (h st)⟩
  | _ => exact .of_eq rfl rfl

theorem walkStep_lease (st : StationId) (c : Captured) (w : Walk) (s : State) : (walkStep st c w s).lease = s.lease := by
  rw [← walkEffect_lease w s]
  unfold walkStep
  dsimp only
  split <;> rfl

theorem walkStep_defaults (st : StationId) (c : Captured) (w : Walk) (s : State) :
    (walkStep st c w s).defaults = s.defaults := by
  rw [← walkEffect_defaults w s]
  unfold walkStep
  dsimp only
  split <;> rfl

theorem Event.settingsKept (h : Event row s t) (hreset : ∀ b, row ≠ .reset b) : SettingsKept row s t := by
  cases haccess : accessStation row with
  | some st =>
    obtain ⟨f, pins, rfl⟩ := h.of_access haccess
    exact .of_eq rfl rfl
  | none =>
    cases h with
    | idle => exact .of_eq rfl rfl
    | completed _ _ _ hwork _ =>
      have hkept := hwork.settingsKept
      exact ⟨hkept.classes, hkept.prescaler, hkept.running, hkept.defaults⟩
    | detached st c _ _ =>
      exact .of_eq ((walkStep_lease st c _ _).trans (State.endWait_lease (s.setLife st .detaching) st))
        ((walkStep_defaults st c _ _).trans (State.endWait_defaults (s.setLife st .detaching) st))
    | purged target c _ _ _ _ =>
      exact .of_eq ((walkStep_lease 0 c _ _).trans (State.endWait_lease (s.modifyCtx target Station.purged) target))
        ((walkStep_defaults 0 c _ _).trans (State.endWait_defaults (s.modifyCtx target Station.purged) target))
    | walked st c w _ => exact .of_eq (walkStep_lease st c w s) (walkStep_defaults st c w s)
    | ticked _ _ =>
      have hlease : s.tick.lease = { s.lease with count := 0 } := State.tickTable_lease _
      have hdefaults : s.tick.defaults = s.defaults := State.tickTable_defaults _
      exact ⟨fun _ => by rw [hlease], fun _ => by rw [hlease], fun _ => by rw [hlease], fun _ => hdefaults⟩
    | read _ _ hst => exact absurd (hst.symm.trans haccess) (by simp)
    | write _ _ _ hst => exact absurd (hst.symm.trans haccess) (by simp)
    | resetHigh => exact absurd rfl (hreset true)
    | resetLow => exact absurd rfl (hreset false)

end Settings

/-! ### Standing records -/

/-- A standing record keeps its attributes, its kind and its name. -/
def Record.StandingKept (r r' : Record) : Prop :=
  r.kind = .standing → r'.attrs = r.attrs ∧ r'.kind = .standing ∧ r'.name = r.name

theorem Record.StandingKept.of_eq {r r' : Record} (ha : r'.attrs = r.attrs) (hk : r'.kind = r.kind)
    (hn : r'.name = r.name) : r.StandingKept r' := fun h => ⟨ha, hk.trans h, hn⟩

theorem Record.StandingKept.trans {r q p : Record} (h : r.StandingKept q) (k : q.StandingKept p) : r.StandingKept p := by
  intro hr
  obtain ⟨ha, hk, hn⟩ := h hr
  obtain ⟨ka, kk, kn⟩ := k hk
  exact ⟨ka.trans ha, kk, kn.trans hn⟩

/-- Every change but an AMEND keeps what a standing record is. -/
theorem Record.Change.standingKept {length : ClassId → Byte} {row : Instr} {r r' : Record}
    (h : Record.Change length (some row) r r') (hrow : ∀ st, row ≠ .amend st) : r.StandingKept r' := by
  cases h with
  | adopted _ hk => exact fun hs => absurd (hk.symm.trans hs) (by simp)
  | amended _ hamend _ =>
    obtain ⟨st, hst⟩ := hamend
    exact absurd (Option.some.inj hst) (hrow st)
  | reclassed _ hamend =>
    obtain ⟨st, hst⟩ := hamend
    exact absurd (Option.some.inj hst) (hrow st)
  | run _ _ hrun => exact .of_eq hrun.attrs hrun.kind hrun.name
  | _ => exact .of_eq rfl rfl rfl

theorem State.Changed.standingKept {length : ClassId → Byte} {row : Instr} {s t : State}
    (h : s.Changed length (some row) t) (hrow : ∀ st, row ≠ .amend st) {i : SlotId} {r' : Record}
    (hr' : t.record i = some r') : ∃ r, s.record i = some r ∧ r.StandingKept r' := by
  obtain ⟨r, hr, hchange⟩ := h i r' hr'
  refine ⟨r, hr, ?_⟩
  clear hr'
  induction hchange with
  | refl => exact .of_eq rfl rfl rfl
  | tail _ hlast ih => exact ih.trans (hlast.standingKept hrow)

/-- A record stands in a slot that a command provides only where the slot was free. -/
theorem State.Provided.record {s u : State} (h : s.Provided u) {i : SlotId} {r : Record} (hr : s.record i = some r) :
    u.record i = some r := by
  rcases h with rfl | ⟨j, q, hj, -, rfl⟩
  · exact hr
  · rw [State.record_setRecord_ne _ _ _ _ fun e => by simp [← e, hr] at hj, hr]

theorem changed_walkStep {length : ClassId → Byte} {row : Option Instr} (st : StationId) (c : Captured) (w : Walk)
    {s : State} (h : s.lengths = length) : s.Changed length row (walkStep st c w s) :=
  (changed_walkEffect w h).to_slots (walkStep_slots st c w s)

theorem changed_firstStep {row : Option Instr} (k : WalkKind) (b : StationId) (f g : Station → Station) (s : State) :
    s.Changed s.lengths row (firstStep k b f g s) := by
  have hended : s.Changed s.lengths row (((s.modifyCtx b f).endWait b).modifyCtx b g) :=
    ((State.Changed.of_slots (by rfl)).trans (changed_endWait (s := s.modifyCtx b f) b rfl)).to_slots rfl
  have hlease : (((s.modifyCtx b f).endWait b).modifyCtx b g).lease = s.lease := State.endWait_lease _ b
  exact hended.trans (changed_walkEffect _ (State.lengths_of_classes (by rw [hlease])))

/-- Every event but RESET's changes records, one of which it may have provided. -/
theorem Event.changed {row : Instr} {s t : State} (h : Event row s t) (hreset : ∀ b, row ≠ .reset b) :
    ∃ u length, s.Provided u ∧ u.Changed length (some row) t := by
  have kept {t : State} (ht : s.Changed s.lengths (some row) t) :
      ∃ u length, s.Provided u ∧ u.Changed length (some row) t := ⟨s, s.lengths, .inl rfl, ht⟩
  cases haccess : accessStation row with
  | some st =>
    obtain ⟨f, pins, rfl⟩ := h.of_access haccess
    exact kept (.of_slots rfl)
  | none =>
    cases h with
    | idle => exact kept (.of_slots rfl)
    | completed _ _ _ hwork _ =>
      obtain ⟨u, hprovided, hchanged⟩ := hwork.changed
      exact ⟨u, _, hprovided, hchanged.to_slots rfl⟩
    | detached st c _ _ =>
      obtain ⟨w, -, hcarry⟩ := detachFirstTurn_carries st c s
      rw [hcarry]
      exact kept ((changed_firstStep .detach st _ _ s).to_slots rfl)
    | purged target c _ _ _ _ =>
      obtain ⟨w, -, hcarry⟩ := purgeFirstTurn_carries 0 target c s
      rw [hcarry]
      exact kept ((changed_firstStep .purge target _ _ s).to_slots rfl)
    | walked st c w _ => exact kept ((changed_walkStep st c w rfl).to_slots rfl)
    | ticked _ _ =>
      have hstart : s.Changed s.lengths (some row) (s.setPrescaler 0) := .of_slots rfl
      exact kept (hstart.trans (changed_tickTable rfl))
    | read _ _ hst => exact absurd (hst.symm.trans haccess) (by simp)
    | write _ _ _ hst => exact absurd (hst.symm.trans haccess) (by simp)
    | resetHigh => exact absurd rfl (hreset true)
    | resetLow => exact absurd rfl (hreset false)

/-- Settles O52. -/
theorem configurationChangedByItsCommandsOnly : Obligations.ConfigurationChangedByItsCommandsOnly := by
  intro s t i hreset h
  have hevent := exec_event h
  have hkept := hevent.settingsKept hreset
  refine ⟨hkept.classes, hkept.prescaler, hkept.running, hkept.defaults, fun hrow p r r' hr hstanding hr' => ?_⟩
  obtain ⟨u, length, hprovided, hchanged⟩ := hevent.changed hreset
  obtain ⟨q, hq, hq'⟩ := hchanged.standingKept hrow hr'
  obtain rfl := Option.some.inj (hq.symm.trans (hprovided.record hr))
  exact hq' hstanding

end Sys2Proof.Machine
end

section
/-!
SUPPORT. The deadlock probe finds the lowest blocker from which a chain leads back (R62 to R64), and the tests that refuse a
wait, as a table of checks. What the readers of waits say once a wait has been entered.
-/

namespace Sys2Proof.Machine

/-! ### The probe that reaches the requester -/

section Probe

variable {s : State} {requester : StationId}

theorem searchEach_reached {search : StationId → List StationId → Bool × List StationId} {P : StationId → Prop}
    (hsearch : ∀ x visited, (search x visited).1 = true → P x) (ys visited : List StationId)
    (htrue : (searchEach search ys visited).1 = true) : ∃ y ∈ ys, P y := by
  induction ys generalizing visited with
  | nil => exact absurd htrue (by simp [searchEach])
  | cons y ys ih =>
    unfold searchEach at htrue
    split at htrue
    · obtain ⟨z, hz, hP⟩ := ih visited htrue
      exact ⟨z, List.mem_cons_of_mem y hz, hP⟩
    · dsimp only at htrue
      split at htrue
      · exact ⟨y, List.mem_cons_self, hsearch y visited htrue⟩
      · obtain ⟨z, hz, hP⟩ := ih _ htrue
        exact ⟨z, List.mem_cons_of_mem y hz, hP⟩

/-- A search from a station that reaches the requester: a chain leads from the requester to the station (R63). -/
theorem chainTo_of_searchFrom (hone : s.OneWaitLaw) (fuel : Nat) (x : StationId) (visited : List StationId)
    (htrue : (searchFrom s requester fuel x visited).1 = true) : s.ChainTo requester x := by
  induction fuel generalizing x visited with
  | zero => exact absurd htrue (by simp [searchFrom])
  | succ fuel ih =>
    unfold searchFrom at htrue
    dsimp only at htrue
    split at htrue
    · next hbefore =>
      exact .single ((State.mem_standingBefore hone _ _).mp (by simpa using hbefore))
    · obtain ⟨y, hy, hchain⟩ := searchEach_reached (fun y v h => ih y v h) _ _ htrue
      exact hchain.tail ((State.mem_standingBefore hone _ _).mp hy)

/-- The probe answers the first blocker of its list from which a search reaches the requester: the stations it searched before
have led to nothing. -/
theorem probeEach_eq_some (hone : s.OneWaitLaw) {b : StationId} (bs visited : List StationId) (hnd : visited.Nodup)
    (hsome : probeEach s requester bs visited = some b) :
    ∃ before behind after, bs = before ++ b :: behind ∧ Explored s requester visited after ∧ before ⊆ after
      ∧ s.ChainTo requester b := by
  induction bs generalizing visited with
  | nil => exact absurd hsome (by simp [probeEach])
  | cons x bs ih =>
    unfold probeEach at hsome
    split at hsome
    · next hx =>
      obtain ⟨before, behind, after, rfl, hex, hsub, hchain⟩ := ih visited hnd hsome
      exact ⟨x :: before, behind, after, rfl, hex, List.cons_subset.mpr ⟨hex.subset (by simpa using hx), hsub⟩, hchain⟩
    · next hx =>
      dsimp only at hsome
      split at hsome
      · next hreached =>
        obtain rfl := Option.some.inj hsome
        exact ⟨[], bs, visited, rfl, .refl hnd, List.nil_subset _, chainTo_of_searchFrom hone 8 x visited hreached⟩
      · next hreached =>
        obtain ⟨hfirst, hmem⟩ := searchFrom_explored 8 x visited hnd (by simpa using hx) (by omega)
          (by simpa using hreached)
        obtain ⟨before, behind, after, rfl, hrest, hsub, hchain⟩ := ih _ hfirst.nodup hsome
        exact ⟨x :: before, behind, after, rfl, hfirst.trans hrest, List.cons_subset.mpr ⟨hrest.subset hmem, hsub⟩, hchain⟩

/-- The probe of an ascending list of blockers answers the lowest from which a chain leads back to the requester (R64). -/
theorem State.probe_eq_some (hone : s.OneWaitLaw) {blockers : List StationId} (hsorted : blockers.Pairwise (· < ·))
    {b : StationId} (h : s.probe requester blockers = some b) :
    b ∈ blockers ∧ s.ChainTo requester b ∧ ∀ a ∈ blockers, a < b → ¬ s.ChainTo requester a := by
  obtain ⟨before, behind, after, rfl, hex, hsub, hchain⟩ := probeEach_eq_some hone blockers [] List.nodup_nil h
  refine ⟨by simp, hchain, fun a ha hlt => hex.not_chainTo hone (hsub ?_)⟩
  rcases List.mem_append.mp ha with hbefore | hbehind
  · exact hbefore
  · have hbelow := (List.pairwise_cons.mp (List.pairwise_append.mp hsorted).2.1).1
    rcases List.mem_cons.mp hbehind with rfl | hbehind
    · exact absurd hlt (lt_irrefl a)
    · exact absurd (hbelow a hbehind) (not_lt.mpr hlt.le)

/-- The probe answers exactly where a chain leads back from some blocker (R63). -/
theorem State.probe_isSome_iff (hone : s.OneWaitLaw) {blockers : List StationId} (hsorted : blockers.Pairwise (· < ·)) :
    (∃ b, s.probe requester blockers = some b) ↔ ∃ b ∈ blockers, s.ChainTo requester b := by
  constructor
  · rintro ⟨b, hb⟩
    obtain ⟨hmem, hchain, -⟩ := State.probe_eq_some hone hsorted hb
    exact ⟨b, hmem, hchain⟩
  · rintro ⟨b, hmem, hchain⟩
    cases hp : s.probe requester blockers with
    | none => exact absurd hchain (State.not_chainTo_of_probe hone hp hmem)
    | some a => exact ⟨a, rfl⟩

end Probe

/-! ### Direct blockers -/

theorem sorted_filter_allStations (p : StationId → Bool) : (allStations.filter p).Pairwise (· < ·) :=
  (List.pairwise_lt_finRange 8).filter p

theorem Record.mem_claimBlockers (r : Record) (a : StationId) :
    a ∈ r.claimBlockers ↔ r.holding a ≠ none ∨ ∃ w ∈ r.queue, w.station = a := by
  simp only [Record.claimBlockers, List.mem_filter, mem_allStations, true_and, Bool.or_eq_true, r.holds_iff, r.waits_iff]

theorem Record.mem_upgradeBlockers (r : Record) (st a : StationId) :
    a ∈ r.upgradeBlockers st ↔ r.holding a ≠ none ∧ a ≠ st := by
  simp only [Record.upgradeBlockers, List.mem_filter, mem_allStations, true_and, Bool.and_eq_true, r.holds_iff, bne_iff_ne]

theorem Record.sorted_claimBlockers (r : Record) : r.claimBlockers.Pairwise (· < ·) := sorted_filter_allStations _

theorem Record.sorted_upgradeBlockers (r : Record) (st : StationId) : (r.upgradeBlockers st).Pairwise (· < ·) :=
  sorted_filter_allStations _

/-! ### The tests that refuse a wait -/

section WaitRefusal

variable {s : State} {st : StationId} {blockers : List StationId}

theorem waitRefusal_waitPending (hw : s.Waiting st) : s.waitRefusal st blockers = some (.bare .waitPending) :=
  if_pos ((s.hasWait_iff st).mpr hw)

theorem waitRefusal_noticeFull (hw : ¬ s.Waiting st) (hfull : 8 ≤ (s.ctx st).notices.length) :
    s.waitRefusal st blockers = some (.bare .noticeFull) := by
  unfold State.waitRefusal
  rw [if_neg (mt (s.hasWait_iff st).mp hw)]
  exact if_pos hfull

theorem waitRefusal_probe (hw : ¬ s.Waiting st) (hroom : (s.ctx st).notices.length < 8) :
    s.waitRefusal st blockers = (s.probe st blockers).map fun b => ⟨.deadlock, byteOf b.val, 0, 0, 0⟩ := by
  unfold State.waitRefusal
  rw [if_neg (mt (s.hasWait_iff st).mp hw)]
  exact if_neg (not_le.mpr hroom)

/-- No test refuses the wait (R24 steps 10 to 12, R47 steps 7 to 9). -/
theorem waitRefusal_none (hone : s.OneWaitLaw) (hsorted : blockers.Pairwise (· < ·)) (hw : ¬ s.Waiting st)
    (hroom : (s.ctx st).notices.length < 8) (hchain : ∀ b ∈ blockers, ¬ s.ChainTo st b) :
    s.waitRefusal st blockers = none := by
  rw [waitRefusal_probe hw hroom, Option.map_eq_none_iff, Option.eq_none_iff_forall_ne_some]
  intro b hb
  obtain ⟨hmem, hback, -⟩ := State.probe_eq_some hone hsorted hb
  exact hchain b hmem hback

/-- The code of the tests that refuse a wait, as the last rows of the tables of R24 and R47. -/
theorem waitRefusal_checks (hone : s.OneWaitLaw) (hsorted : blockers.Pairwise (· < ·)) {P : Prop}
    (hP : P ↔ ∃ b ∈ blockers, s.ChainTo st b) {code : ResultCode}
    (hrefused : ∀ x, s.waitRefusal st blockers = some x → code = x.code)
    (hqueued : s.waitRefusal st blockers = none → code = .queued) : FirstApplies
    [(s.Waiting st, .waitPending), (8 ≤ (s.ctx st).notices.length, .noticeFull), (P, .deadlock), (True, .queued)] code := by
  by_cases hw : s.Waiting st
  · rw [hrefused _ (waitRefusal_waitPending hw)]
    exact .here hw
  refine .skip hw ?_
  by_cases hfull : 8 ≤ (s.ctx st).notices.length
  · rw [hrefused _ (waitRefusal_noticeFull hw hfull)]
    exact .here hfull
  refine .skip hfull ?_
  have hprobe := waitRefusal_probe (blockers := blockers) hw (not_le.mp hfull)
  cases hp : s.probe st blockers with
  | none =>
    rw [hp] at hprobe
    rw [hqueued hprobe]
    refine .skip (fun h => ?_) (.here trivial)
    obtain ⟨b, hmem, hchain⟩ := hP.mp h
    exact State.not_chainTo_of_probe hone hp hmem hchain
  | some b =>
    rw [hp] at hprobe
    rw [hrefused _ hprobe]
    exact .here (hP.mpr ((State.probe_isSome_iff hone hsorted).mp ⟨b, hp⟩))

/-- A DEADLOCK names the lowest blocker from which a chain leads back (R64). -/
theorem waitRefusal_deadlock (hone : s.OneWaitLaw) (hsorted : blockers.Pairwise (· < ·)) {x : Result}
    (h : s.waitRefusal st blockers = some x) (hcode : x.code = .deadlock) :
    ∃ b, x = ⟨.deadlock, BitVec.ofNat 8 b.val, 0, 0, 0⟩ ∧ b ∈ blockers ∧ s.ChainTo st b
      ∧ ∀ a, a < b → a ∈ blockers → ¬ s.ChainTo st a := by
  unfold State.waitRefusal at h
  split_ifs at h
  · obtain rfl := Option.some.inj h
    exact absurd hcode (by simp [Result.bare])
  · obtain rfl := Option.some.inj h
    exact absurd hcode (by simp [Result.bare])
  · obtain ⟨b, hb, rfl⟩ := Option.map_eq_some_iff.mp h
    obtain ⟨hmem, hchain, hlowest⟩ := State.probe_eq_some hone hsorted hb
    exact ⟨b, rfl, hmem, hchain, fun a hlt ha => hlowest a ha hlt⟩

theorem waitRefusal_code_ne_queued {x : Result} (h : s.waitRefusal st blockers = some x) : x.code ≠ .queued := by
  unfold State.waitRefusal at h
  split_ifs at h
  · obtain rfl := Option.some.inj h
    simp [Result.bare]
  · obtain rfl := Option.some.inj h
    simp [Result.bare]
  · obtain ⟨b, -, rfl⟩ := Option.map_eq_some_iff.mp h
    simp

end WaitRefusal

/-! ### A wait that has been entered -/

theorem State.hasClaimWait_of_not_waiting {s : State} {st : StationId} (h : ¬ s.Waiting st) : s.hasClaimWait st = false := by
  rw [State.hasClaimWait, (s.waitOf_eq_none st).mpr h]
  rfl

/-- The readers of the waits once a station has entered the line of a record (R10, R31). -/
theorem wait_entered {s u : State} (hone : s.OneWaitLaw) {i : SlotId} {r r' : Record} {w : Waiter}
    (hr : s.record i = some r) (hwait : ¬ s.Waiting w.station) (hline : r'.line.Perm (w.station :: r.line))
    (hmem : w ∈ r'.queue) (hu : u.slots = (s.setRecord i (some r')).slots)
    (hcount : u.holdingCount w.station = s.holdingCount w.station) :
    u.Waiting w.station ∧ u.hasWait w.station = true ∧ u.waitName w.station = r'.name
      ∧ u.commitment w.station = s.commitment w.station + if w.request = .upgrade then 0 else 1 := by
  have honeEntered : u.OneWaitLaw := (hone.enter hr hwait hline).congr hu
  have hrecord : u.record i = some r' := (State.record_of_slots hu i).trans (s.record_setRecord_same i _)
  have hwaiting : u.Waiting w.station := ⟨i, r', hrecord, w, hmem, rfl⟩
  have hfound := (u.waitOf_eq_some honeEntered w.station i r' w).mpr ⟨hrecord, hmem, rfl⟩
  refine ⟨hwaiting, (u.hasWait_iff _).mpr hwaiting, by rw [State.waitName, hfound], ?_⟩
  have hclaim : u.hasClaimWait w.station = (w.request != .upgrade) := by
    rw [State.hasClaimWait, hfound]
    rfl
  rw [State.commitment, State.commitment, hclaim, State.hasClaimWait_of_not_waiting hwait, hcount]
  by_cases hup : w.request = .upgrade
  · simp [hup]
  · simp [hup]

end Sys2Proof.Machine
end

section
/-!
SUPPORT. CLAIM and UPGRADE, branch by branch of their tables of checks (R24, R47). With it, O13 to O18, O20 and O21.
-/

namespace Sys2Proof.Machine

section Claim

variable {s : State} {st : StationId} {c : Captured} {m : Mode} {i : SlotId} {r : Record} {h : Holding}

/-! ### UPGRADE -/

theorem upgradeCommand_badName (hz : c.name = 0) : upgradeCommand st c s = (s, .bare .badName) := by
  simp [upgradeCommand, hz]

theorem upgradeCommand_notHolder (hz : c.name ≠ 0) (hu : s.holdingUnder st c.name = none) :
    upgradeCommand st c s = (s, .bare .notHolder) := by
  rw [upgradeCommand, if_neg hz]
  simp [hu]

theorem upgradeCommand_denied (hN : s.NamesLaw) (hn : s.Named c.name i r) (hh : r.holding st = some h)
    (hp : r.attrs.permits st = false) : upgradeCommand st c s = (s, .bare .denied) := by
  have hu := (s.holdingUnder_eq_some hN st c.name i r h).mpr ⟨hn, hh⟩
  rw [upgradeCommand, if_neg (hn.ne_zero hN)]
  simp [hu, hp]

theorem upgradeCommand_badMode (hN : s.NamesLaw) (hn : s.Named c.name i r) (hh : r.holding st = some h)
    (hp : r.attrs.permits st = true) (hm : h.mode = .exclusive) : upgradeCommand st c s = (s, .bare .badMode) := by
  have hu := (s.holdingUnder_eq_some hN st c.name i r h).mpr ⟨hn, hh⟩
  rw [upgradeCommand, if_neg (hn.ne_zero hN)]
  simp [hu, hp, hm]

section Shared

variable (hN : s.NamesLaw) (hn : s.Named c.name i r) (hh : r.holding st = some h) (hp : r.attrs.permits st = true)
  (hm : h.mode = .shared) (ho : ¬ r.OnlyHolder st)
include hN hn hh hp hm ho

theorem upgradeCommand_unavailable (hl : c.s3 = 0) : upgradeCommand st c s = (s, .bare .unavailable) := by
  have hu := (s.holdingUnder_eq_some hN st c.name i r h).mpr ⟨hn, hh⟩
  rw [upgradeCommand, if_neg (hn.ne_zero hN)]
  simp [hu, hp, hm, mt (r.soleHolder_iff st).mp ho, hl]

theorem upgradeCommand_refused (hl : c.s3 ≠ 0) {x : Result} (hx : s.waitRefusal st (r.upgradeBlockers st) = some x) :
    upgradeCommand st c s = (s, x) := by
  have hu := (s.holdingUnder_eq_some hN st c.name i r h).mpr ⟨hn, hh⟩
  have hlimit : c.s3 ≠ 0#8 := hl
  rw [upgradeCommand, if_neg (hn.ne_zero hN)]
  simp [hu, hp, hm, mt (r.soleHolder_iff st).mp ho, hlimit, hx]

theorem upgradeCommand_queued (hl : c.s3 ≠ 0) (hx : s.waitRefusal st (r.upgradeBlockers st) = none) :
    upgradeCommand st c s =
      (s.enterUpgradeWait i r ⟨st, .upgrade, Deadline.ofLimit c.s3⟩, ⟨.queued, 1, 0, 0, 0⟩) := by
  have hu := (s.holdingUnder_eq_some hN st c.name i r h).mpr ⟨hn, hh⟩
  have hlimit : c.s3 ≠ 0#8 := hl
  rw [upgradeCommand, if_neg (hn.ne_zero hN)]
  simp [hu, hp, hm, mt (r.soleHolder_iff st).mp ho, hlimit, hx]

end Shared

/-- R47's table. -/
theorem upgradeCommand_checks (hN : s.NamesLaw) (hone : s.OneWaitLaw) : FirstApplies
    [(c.name = 0, .badName),
     (¬ ∃ i r h, s.Named c.name i r ∧ r.holding st = some h, .notHolder),
     (∃ i r, s.Named c.name i r ∧ r.attrs.permit.getLsbD st.val = false, .denied),
     (∃ i r h, s.Named c.name i r ∧ r.holding st = some h ∧ h.mode = .exclusive, .badMode),
     (∃ i r, s.Named c.name i r ∧ r.OnlyHolder st, .granted),
     (c.s3 = 0, .unavailable),
     (s.Waiting st, .waitPending),
     (8 ≤ (s.ctx st).notices.length, .noticeFull),
     (∃ i r b, s.Named c.name i r ∧ (r.holding b ≠ none ∧ b ≠ st) ∧ s.ChainTo st b, .deadlock),
     (True, .queued)]
    (upgradeCommand st c s).2.code := by
  refine firstApplies_of_holder hN (fun hz => ?_) (fun hz hu => ?_) fun i r h hn hh => ?_
  · rw [upgradeCommand_badName hz]
    rfl
  · rw [upgradeCommand_notHolder hz hu]
    rfl
  have hdenied := State.exists_named_iff hN hn fun _ q => q.attrs.permit.getLsbD st.val = false
  have hexclusive := State.exists_held_iff hN hn hh fun _ _ g => g.mode = .exclusive
  have honly := State.exists_named_iff hN hn fun _ q => q.OnlyHolder st
  have hdeadlock : (∃ i r b, s.Named c.name i r ∧ (r.holding b ≠ none ∧ b ≠ st) ∧ s.ChainTo st b)
      ↔ ∃ b ∈ r.upgradeBlockers st, s.ChainTo st b := by
    have hnamed := State.exists_named_iff hN hn fun _ q => ∃ b, (q.holding b ≠ none ∧ b ≠ st) ∧ s.ChainTo st b
    simp only [Record.mem_upgradeBlockers]
    rw [← hnamed]
    simp only [exists_and_left]
  by_cases hp : r.attrs.permits st = false
  · rw [upgradeCommand_denied hN hn hh hp]
    exact .here (hdenied.mpr hp)
  refine .skip (mt hdenied.mp hp) ?_
  have hp := Bool.eq_true_of_not_eq_false hp
  cases hm : h.mode with
  | exclusive =>
    rw [upgradeCommand_badMode hN hn hh hp hm]
    exact .here (hexclusive.mpr hm)
  | shared =>
  refine .skip (fun hex => absurd (hm.symm.trans (hexclusive.mp hex)) (by simp)) ?_
  by_cases ho : r.OnlyHolder st
  · rw [upgradeCommand_of_onlyHolder hN hn hh hm hp ho]
    exact .here (honly.mpr ho)
  refine .skip (mt honly.mp ho) ?_
  by_cases hl : c.s3 = 0
  · rw [upgradeCommand_unavailable hN hn hh hp hm ho hl]
    exact .here hl
  refine .skip hl (waitRefusal_checks hone (r.sorted_upgradeBlockers st) hdeadlock (fun x hx => ?_) fun hx => ?_)
  · rw [upgradeCommand_refused hN hn hh hp hm ho hl hx]
  · rw [upgradeCommand_queued hN hn hh hp hm ho hl hx]

/-! ### CLAIM -/

theorem claimCommand_badOperand (hm : c.claimMode = none) : claimCommand st c s = (s, .bare .badOperand) := by
  simp [claimCommand, hm]

theorem claimCommand_badName (hm : c.claimMode = some m) (hz : c.name = 0) :
    claimCommand st c s = (s, .bare .badName) := by
  simp [claimCommand, hm, hz]

theorem claimCommand_absent (hm : c.claimMode = some m) (hz : c.name ≠ 0) (ha : s.Absent c.name) :
    claimCommand st c s = claimAbsent s st c.name m := by
  have hl := (s.lookup_eq_none c.name).mpr (.inr ha)
  simp only [claimCommand, hm, if_neg hz, hl]

section Named

variable (hN : s.NamesLaw) (hn : s.Named c.name i r) (hm : c.claimMode = some m)
include hN hn hm

theorem claimCommand_denied (hp : r.attrs.permits st = false) : claimCommand st c s = (s, .bare .denied) := by
  have hl := (s.lookup_eq_some hN c.name i r).mpr hn
  simp only [claimCommand, hm, if_neg (hn.ne_zero hN), hl, if_pos hp]

theorem claimCommand_badMode (hp : r.attrs.permits st = true) (hsh : m = .shared ∧ r.attrs.sharedAllowed = false) :
    claimCommand st c s = (s, .bare .badMode) := by
  have hl := (s.lookup_eq_some hN c.name i r).mpr hn
  simp only [claimCommand, hm, if_neg (hn.ne_zero hN), hl, hp, if_pos hsh]
  rfl

theorem claimCommand_held (hp : r.attrs.permits st = true) (hsh : ¬ (m = .shared ∧ r.attrs.sharedAllowed = false))
    (hh : r.holding st = some h) : claimCommand st c s = claimHeld s st m i r h := by
  have hl := (s.lookup_eq_some hN c.name i r).mpr hn
  simp only [claimCommand, hm, if_neg (hn.ne_zero hN), hl, hp, if_neg hsh, hh]
  rfl

theorem claimCommand_new (hp : r.attrs.permits st = true) (hsh : ¬ (m = .shared ∧ r.attrs.sharedAllowed = false))
    (hh : r.holding st = none) : claimCommand st c s = claimNew s st m c.s3 i r := by
  have hl := (s.lookup_eq_some hN c.name i r).mpr hn
  simp only [claimCommand, hm, if_neg (hn.ne_zero hN), hl, hp, if_neg hsh, hh]
  rfl

end Named

/-! ### A claim of an absent name -/

theorem claimAbsent_tableFull (n : LockName) (hf : s.TableFull) : claimAbsent s st n m = (s, .bare .tableFull) := by
  simp [claimAbsent, (s.freeSlot_eq_none).mpr hf]

theorem claimAbsent_holdLimit (n : LockName) (hi : s.LowestFree i) (hc : 16 ≤ s.commitment st) :
    claimAbsent s st n m = (s, .bare .holdLimit) := by
  simp [claimAbsent, (s.freeSlot_eq_some i).mpr hi, Config.holdLimit, hc]

theorem claimAbsent_badMode (n : LockName) (hi : s.LowestFree i) (hc : s.commitment st < 16)
    (hsh : m = .shared ∧ s.defaults.sharedAllowed = false) : claimAbsent s st n m = (s, .bare .badMode) := by
  simp [claimAbsent, (s.freeSlot_eq_some i).mpr hi, Config.holdLimit, not_le.mpr hc, hsh]

/-- The claim creates the record and grants it (R13, R26). -/
theorem claimAbsent_created (n : LockName) (hi : s.LowestFree i) (hc : s.commitment st < 16)
    (hsh : ¬ (m = .shared ∧ s.defaults.sharedAllowed = false)) : claimAbsent s st n m =
      (s.grantAtOnce i (s.newTransient n) st m, grantedResult ⟨m, 1, s.classLease s.defaults.leaseClass⟩ none) := by
  have hnot : ¬ Config.holdLimit ≤ s.commitment st := not_le.mpr hc
  simp only [claimAbsent, (s.freeSlot_eq_some i).mpr hi, if_neg hnot, if_neg hsh]

/-- Steps 3a to 3d of R24's table. -/
theorem claimAbsent_checks (hm : m = .shared ↔ c.s2 = 0) (ha : s.Absent c.name) (rest : List (Prop × ResultCode)) :
    FirstApplies
      ((s.Absent c.name ∧ s.TableFull, .tableFull)
        :: (s.Absent c.name ∧ 16 ≤ s.commitment st, .holdLimit)
        :: (s.Absent c.name ∧ c.s2 = 0 ∧ s.defaults.sharedAllowed = false, .badMode)
        :: (s.Absent c.name, .granted) :: rest)
      (claimAbsent s st c.name m).2.code := by
  cases hi : s.freeSlot with
  | none =>
    have hfull := (s.freeSlot_eq_none).mp hi
    rw [claimAbsent_tableFull c.name hfull]
    exact .here ⟨ha, hfull⟩
  | some i =>
    have hfree := (s.freeSlot_eq_some i).mp hi
    refine .skip (fun hfull => hfull.2 i hfree.1) ?_
    by_cases hc : 16 ≤ s.commitment st
    · rw [claimAbsent_holdLimit c.name hfree hc]
      exact .here ⟨ha, hc⟩
    refine .skip (fun h => hc h.2) ?_
    by_cases hsh : m = .shared ∧ s.defaults.sharedAllowed = false
    · rw [claimAbsent_badMode c.name hfree (not_le.mp hc) hsh]
      exact .here ⟨ha, hm.mp hsh.1, hsh.2⟩
    · rw [claimAbsent_created c.name hfree (not_le.mp hc) hsh]
      exact .skip (fun h => hsh ⟨hm.mpr h.2.1, h.2.2⟩) (.here ha)

/-! ### A claim by a holder -/

theorem claimHeld_badMode (hx : h.mode = .shared ∧ m = .exclusive) : claimHeld s st m i r h = (s, .bare .badMode) :=
  if_pos hx

theorem claimHeld_depthLimit (hx : ¬ (h.mode = .shared ∧ m = .exclusive)) (hd : 15 ≤ h.depth) :
    claimHeld s st m i r h = (s, .bare .depthLimit) :=
  (if_neg hx).trans (if_pos hd)

/-- The holding is re-entered: one level deeper, its lease reloaded (R29). -/
theorem claimHeld_reentered (hx : ¬ (h.mode = .shared ∧ m = .exclusive)) (hd : h.depth ≤ 14) :
    claimHeld s st m i r h =
      (s.setRecord i (some (r.setHolding st (some ⟨h.mode, h.depth + 1, s.classLease r.attrs.leaseClass⟩))),
        grantedResult ⟨h.mode, h.depth + 1, s.classLease r.attrs.leaseClass⟩ r.taint) :=
  (if_neg hx).trans (if_neg (not_le.mpr (Nat.lt_succ_of_le hd)))

/-- Steps 6a to 6c of R24's table. -/
theorem claimHeld_checks (hN : s.NamesLaw) (hn : s.Named c.name i r) (hh : r.holding st = some h)
    (hm : m = .exclusive ↔ c.s2 = 1) (rest : List (Prop × ResultCode)) :
    FirstApplies
      ((∃ i r h, s.Named c.name i r ∧ r.holding st = some h ∧ h.mode = .shared ∧ c.s2 = 1, .badMode)
        :: (∃ i r h, s.Named c.name i r ∧ r.holding st = some h ∧ 15 ≤ h.depth, .depthLimit)
        :: (∃ i r h, s.Named c.name i r ∧ r.holding st = some h, .granted) :: rest)
      (claimHeld s st m i r h).2.code := by
  have hshared := State.exists_held_iff hN hn hh fun _ _ g => g.mode = .shared ∧ c.s2 = 1
  have hdeep := State.exists_held_iff hN hn hh fun _ _ g => 15 ≤ g.depth
  by_cases hx : h.mode = .shared ∧ m = .exclusive
  · rw [claimHeld_badMode hx]
    exact .here (hshared.mpr ⟨hx.1, hm.mp hx.2⟩)
  refine .skip (fun hex => hx ⟨(hshared.mp hex).1, hm.mpr (hshared.mp hex).2⟩) ?_
  by_cases hd : 15 ≤ h.depth
  · rw [claimHeld_depthLimit hx hd]
    exact .here (hdeep.mpr hd)
  · rw [claimHeld_reentered hx (by omega)]
    exact .skip (mt hdeep.mp hd) (.here ⟨i, r, h, hn, hh⟩)

/-! ### A claim of a record that the station does not hold -/

section New

variable {limit : Byte}

theorem claimNew_holdLimit (hc : 16 ≤ s.commitment st) : claimNew s st m limit i r = (s, .bare .holdLimit) := if_pos hc

/-- The claim is granted at once (R32, R33). -/
theorem claimNew_granted (hc : s.commitment st < 16) (hg : r.GrantableNow m) : claimNew s st m limit i r =
    (s.grantAtOnce i r st m, grantedResult ⟨m, 1, s.classLease r.attrs.leaseClass⟩ r.taint) :=
  (if_neg (not_le.mpr hc)).trans (if_pos ((r.grantableNow_iff m).mpr hg))

variable (hc : s.commitment st < 16) (hg : ¬ r.GrantableNow m)
include hc hg

theorem claimNew_unavailable (hl : limit = 0) : claimNew s st m limit i r = (s, .bare .unavailable) :=
  (if_neg (not_le.mpr hc)).trans ((if_neg (mt (r.grantableNow_iff m).mp hg)).trans (if_pos hl))

theorem claimNew_refused (hl : limit ≠ 0) {x : Result} (hx : s.waitRefusal st r.claimBlockers = some x) :
    claimNew s st m limit i r = (s, x) := by
  refine (if_neg (not_le.mpr hc)).trans ((if_neg (mt (r.grantableNow_iff m).mp hg)).trans ((if_neg hl).trans ?_))
  rw [hx]

/-- The claim waits (R51). -/
theorem claimNew_queued (hl : limit ≠ 0) (hx : s.waitRefusal st r.claimBlockers = none) : claimNew s st m limit i r =
    (s.enterClaimWait i r ⟨st, Request.ofMode m, Deadline.ofLimit limit⟩,
      ⟨.queued, byteOf (r.queue.length + 1), 0, 0, 0⟩) := by
  refine (if_neg (not_le.mpr hc)).trans ((if_neg (mt (r.grantableNow_iff m).mp hg)).trans ((if_neg hl).trans ?_))
  rw [hx]

end New

/-- Steps 7 to 13 of R24's table. -/
theorem claimNew_checks (hN : s.NamesLaw) (hone : s.OneWaitLaw) (hn : s.Named c.name i r)
    (hm : m = if c.s2 = 0 then .shared else .exclusive) : FirstApplies
    [(16 ≤ s.commitment st, .holdLimit),
     (∃ i r, s.Named c.name i r ∧ r.GrantableNow (if c.s2 = 0 then .shared else .exclusive), .granted),
     (c.s3 = 0, .unavailable),
     (s.Waiting st, .waitPending),
     (8 ≤ (s.ctx st).notices.length, .noticeFull),
     (∃ i r b, s.Named c.name i r ∧ (r.holding b ≠ none ∨ ∃ w ∈ r.queue, w.station = b) ∧ s.ChainTo st b, .deadlock),
     (True, .queued)]
    (claimNew s st m c.s3 i r).2.code := by
  rw [← hm]
  have hgrantable := State.exists_named_iff hN hn fun _ q => q.GrantableNow m
  have hdeadlock : (∃ i r b, s.Named c.name i r ∧ (r.holding b ≠ none ∨ ∃ w ∈ r.queue, w.station = b) ∧ s.ChainTo st b)
      ↔ ∃ b ∈ r.claimBlockers, s.ChainTo st b := by
    have hnamed := State.exists_named_iff hN hn fun _ q =>
      ∃ b, (q.holding b ≠ none ∨ ∃ w ∈ q.queue, w.station = b) ∧ s.ChainTo st b
    simp only [Record.mem_claimBlockers]
    rw [← hnamed]
    simp only [exists_and_left]
  by_cases hc : 16 ≤ s.commitment st
  · rw [claimNew_holdLimit hc]
    exact .here hc
  refine .skip hc ?_
  have hc := not_le.mp hc
  by_cases hg : r.GrantableNow m
  · rw [claimNew_granted hc hg]
    exact .here (hgrantable.mpr hg)
  refine .skip (mt hgrantable.mp hg) ?_
  by_cases hl : c.s3 = 0
  · rw [claimNew_unavailable hc hg hl]
    exact .here hl
  refine .skip hl (waitRefusal_checks hone r.sorted_claimBlockers hdeadlock (fun x hx => ?_) fun hx => ?_)
  · rw [claimNew_refused hc hg hl hx]
  · rw [claimNew_queued hc hg hl hx]

/-! ### R24's table -/

/-- The mode a claim asks for, read off S2 (R23, R179). -/
theorem Captured.claimMode_eq_some (hm : c.claimMode = some m) :
    ¬ (c.s2 ≠ 0 ∧ c.s2 ≠ 1) ∧ (m = if c.s2 = 0 then .shared else .exclusive) ∧ (m = .shared ↔ c.s2 = 0)
      ∧ (m = .exclusive ↔ c.s2 = 1) := by
  unfold Captured.claimMode at hm
  split_ifs at hm with h0 h1
  · obtain rfl := Option.some.inj hm
    simp [h0]
  · obtain rfl := Option.some.inj hm
    simp [h1]

theorem State.Absent.not_named {n : LockName} (ha : s.Absent n) (P : SlotId → Record → Prop) :
    ¬ ∃ i r, s.Named n i r ∧ P i r := by
  rintro ⟨i, r, hn, -⟩
  exact ha i r hn.1 hn.2

theorem State.exists_named_of_not_absent {n : LockName} (ha : ¬ s.Absent n) : ∃ i r, s.Named n i r := by
  unfold State.Absent at ha
  push Not at ha
  obtain ⟨i, r, hr, hn⟩ := ha
  exact ⟨i, r, hr, hn⟩

theorem claimCommand_checks (hN : s.NamesLaw) (hone : s.OneWaitLaw) : FirstApplies
    [(c.s2 ≠ 0 ∧ c.s2 ≠ 1, .badOperand),
     (c.name = 0, .badName),
     (s.Absent c.name ∧ s.TableFull, .tableFull),
     (s.Absent c.name ∧ 16 ≤ s.commitment st, .holdLimit),
     (s.Absent c.name ∧ c.s2 = 0 ∧ s.defaults.sharedAllowed = false, .badMode),
     (s.Absent c.name, .granted),
     (∃ i r, s.Named c.name i r ∧ r.attrs.permit.getLsbD st.val = false, .denied),
     (∃ i r, s.Named c.name i r ∧ c.s2 = 0 ∧ r.attrs.sharedAllowed = false, .badMode),
     (∃ i r h, s.Named c.name i r ∧ r.holding st = some h ∧ h.mode = .shared ∧ c.s2 = 1, .badMode),
     (∃ i r h, s.Named c.name i r ∧ r.holding st = some h ∧ 15 ≤ h.depth, .depthLimit),
     (∃ i r h, s.Named c.name i r ∧ r.holding st = some h, .granted),
     (16 ≤ s.commitment st, .holdLimit),
     (∃ i r, s.Named c.name i r ∧ r.GrantableNow (if c.s2 = 0 then .shared else .exclusive), .granted),
     (c.s3 = 0, .unavailable),
     (s.Waiting st, .waitPending),
     (8 ≤ (s.ctx st).notices.length, .noticeFull),
     (∃ i r b, s.Named c.name i r ∧ (r.holding b ≠ none ∨ ∃ w ∈ r.queue, w.station = b) ∧ s.ChainTo st b, .deadlock),
     (True, .queued)]
    (claimCommand st c s).2.code := by
  cases hm : c.claimMode with
  | none =>
    rw [claimCommand_badOperand hm]
    exact .here (c.claimMode_eq_none.mp hm)
  | some m =>
  obtain ⟨hoperand, hmode, hshared, hexclusive⟩ := c.claimMode_eq_some hm
  refine .skip hoperand ?_
  by_cases hz : c.name = 0
  · rw [claimCommand_badName hm hz]
    exact .here hz
  refine .skip hz ?_
  by_cases ha : s.Absent c.name
  · rw [claimCommand_absent hm hz ha]
    exact claimAbsent_checks hshared ha _
  refine .skip (fun h => ha h.1) (.skip (fun h => ha h.1) (.skip (fun h => ha h.1) (.skip ha ?_)))
  obtain ⟨i, r, hn⟩ := State.exists_named_of_not_absent ha
  have hdenied := State.exists_named_iff hN hn fun _ q => q.attrs.permit.getLsbD st.val = false
  have hforbidden := State.exists_named_iff hN hn fun _ q => c.s2 = 0 ∧ q.attrs.sharedAllowed = false
  by_cases hp : r.attrs.permits st = false
  · rw [claimCommand_denied hN hn hm hp]
    exact .here (hdenied.mpr hp)
  refine .skip (mt hdenied.mp hp) ?_
  have hp := Bool.eq_true_of_not_eq_false hp
  by_cases hsh : m = .shared ∧ r.attrs.sharedAllowed = false
  · rw [claimCommand_badMode hN hn hm hp hsh]
    exact .here (hforbidden.mpr ⟨hshared.mp hsh.1, hsh.2⟩)
  refine .skip (fun h => hsh ⟨hshared.mpr (hforbidden.mp h).1, (hforbidden.mp h).2⟩) ?_
  cases hh : r.holding st with
  | some h =>
    rw [claimCommand_held hN hn hm hp hsh hh]
    exact claimHeld_checks hN hn hh hexclusive _
  | none =>
    have hnot (P : SlotId → Record → Holding → Prop) :
        ¬ ∃ i r h, s.Named c.name i r ∧ r.holding st = some h ∧ P i r h := by
      rintro ⟨j, q, g, hq, hg, -⟩
      obtain ⟨rfl, rfl⟩ := State.Named.unique hN hn hq
      exact absurd (hh.symm.trans hg) (by simp)
    rw [claimCommand_new hN hn hm hp hsh hh]
    refine .skip (hnot fun _ _ g => g.mode = .shared ∧ c.s2 = 1) (.skip (hnot fun _ _ g => 15 ≤ g.depth)
      (.skip ?_ (claimNew_checks hN hone hn hmode)))
    rintro ⟨j, q, g, hq, hg⟩
    exact hnot (fun _ _ _ => True) ⟨j, q, g, hq, hg, trivial⟩

end Claim

/-! ### Results of the tests that refuse a wait -/

/-- A result is DEADLOCK only as the tests that refuse a wait answer it, and QUEUED only where none of them refuses. -/
def Result.WaitTested (x : Result) (s : State) (st : StationId) (blockers : List StationId) : Prop :=
  (x.code = .deadlock → s.waitRefusal st blockers = some x) ∧ (x.code = .queued → s.waitRefusal st blockers = none)

section WaitTested

variable {s : State} {st : StationId} {c : Captured} {i : SlotId} {r : Record} {blockers : List StationId} {x : Result}

theorem Result.WaitTested.of_code (hd : x.code ≠ .deadlock) (hq : x.code ≠ .queued) : x.WaitTested s st blockers :=
  ⟨fun h => absurd h hd, fun h => absurd h hq⟩

theorem Result.WaitTested.refused (h : s.waitRefusal st blockers = some x) : x.WaitTested s st blockers :=
  ⟨fun _ => h, fun hq => absurd hq (waitRefusal_code_ne_queued h)⟩

theorem Result.WaitTested.queued (h : s.waitRefusal st blockers = none) (hq : x.code = .queued) :
    x.WaitTested s st blockers :=
  ⟨fun hd => absurd (hq.symm.trans hd) (by simp), fun _ => h⟩

/-- The blocker that a DEADLOCK names, and what a QUEUED says of all blockers (R62 to R64). -/
theorem Result.WaitTested.chains (h : x.WaitTested s st blockers) (hone : s.OneWaitLaw)
    (hsorted : blockers.Pairwise (· < ·)) :
    (x.code = .deadlock → ∃ b, x = ⟨.deadlock, BitVec.ofNat 8 b.val, 0, 0, 0⟩ ∧ b ∈ blockers ∧ s.ChainTo st b
        ∧ ∀ a, a < b → a ∈ blockers → ¬ s.ChainTo st a)
      ∧ (x.code = .queued → ∀ a ∈ blockers, ¬ s.ChainTo st a) :=
  ⟨fun hcode => waitRefusal_deadlock hone hsorted (h.1 hcode) hcode,
    fun hcode => (waitRefusal_eq_none hone (h.2 hcode)).2⟩

theorem upgradeCommand_waitTested (hN : s.NamesLaw) (hn : s.Named c.name i r) :
    (upgradeCommand st c s).2.WaitTested s st (r.upgradeBlockers st) := by
  cases hh : r.holding st with
  | none =>
    have hu := (s.holdingUnder_eq_none hN st c.name).mpr (by
      rintro ⟨j, q, g, hq, hg⟩
      obtain ⟨rfl, rfl⟩ := State.Named.unique hN hn hq
      exact absurd (hh.symm.trans hg) (by simp))
    rw [upgradeCommand_notHolder (hn.ne_zero hN) hu]
    exact .of_code (by simp [Result.bare]) (by simp [Result.bare])
  | some h =>
  cases hp : r.attrs.permits st with
  | false =>
    rw [upgradeCommand_denied hN hn hh hp]
    exact .of_code (by simp [Result.bare]) (by simp [Result.bare])
  | true =>
  cases hm : h.mode with
  | exclusive =>
    rw [upgradeCommand_badMode hN hn hh hp hm]
    exact .of_code (by simp [Result.bare]) (by simp [Result.bare])
  | shared =>
  by_cases ho : r.OnlyHolder st
  · rw [upgradeCommand_of_onlyHolder hN hn hh hm hp ho]
    exact .of_code (by simp [grantedResult]) (by simp [grantedResult])
  by_cases hl : c.s3 = 0
  · rw [upgradeCommand_unavailable hN hn hh hp hm ho hl]
    exact .of_code (by simp [Result.bare]) (by simp [Result.bare])
  cases hx : s.waitRefusal st (r.upgradeBlockers st) with
  | some x =>
    rw [upgradeCommand_refused hN hn hh hp hm ho hl hx]
    exact .refused hx
  | none =>
    rw [upgradeCommand_queued hN hn hh hp hm ho hl hx]
    exact .queued hx rfl

theorem claimHeld_waitTested (m : Mode) (h : Holding) : (claimHeld s st m i r h).2.WaitTested s st blockers := by
  by_cases hx : h.mode = .shared ∧ m = .exclusive
  · rw [claimHeld_badMode hx]
    exact .of_code (by simp [Result.bare]) (by simp [Result.bare])
  by_cases hd : 15 ≤ h.depth
  · rw [claimHeld_depthLimit hx hd]
    exact .of_code (by simp [Result.bare]) (by simp [Result.bare])
  · rw [claimHeld_reentered hx (by omega)]
    exact .of_code (by simp [grantedResult]) (by simp [grantedResult])

theorem claimNew_waitTested (m : Mode) (limit : Byte) :
    (claimNew s st m limit i r).2.WaitTested s st r.claimBlockers := by
  by_cases hc : 16 ≤ s.commitment st
  · rw [claimNew_holdLimit hc]
    exact .of_code (by simp [Result.bare]) (by simp [Result.bare])
  have hc := not_le.mp hc
  by_cases hg : r.GrantableNow m
  · rw [claimNew_granted hc hg]
    exact .of_code (by simp [grantedResult]) (by simp [grantedResult])
  by_cases hl : limit = 0
  · rw [claimNew_unavailable hc hg hl]
    exact .of_code (by simp [Result.bare]) (by simp [Result.bare])
  cases hx : s.waitRefusal st r.claimBlockers with
  | some x =>
    rw [claimNew_refused hc hg hl hx]
    exact .refused hx
  | none =>
    rw [claimNew_queued hc hg hl hx]
    exact .queued hx rfl

theorem claimCommand_waitTested (hN : s.NamesLaw) (hn : s.Named c.name i r) :
    (claimCommand st c s).2.WaitTested s st r.claimBlockers := by
  cases hm : c.claimMode with
  | none =>
    rw [claimCommand_badOperand hm]
    exact .of_code (by simp [Result.bare]) (by simp [Result.bare])
  | some m =>
  cases hp : r.attrs.permits st with
  | false =>
    rw [claimCommand_denied hN hn hm hp]
    exact .of_code (by simp [Result.bare]) (by simp [Result.bare])
  | true =>
  by_cases hsh : m = .shared ∧ r.attrs.sharedAllowed = false
  · rw [claimCommand_badMode hN hn hm hp hsh]
    exact .of_code (by simp [Result.bare]) (by simp [Result.bare])
  cases hh : r.holding st with
  | some h =>
    rw [claimCommand_held hN hn hm hp hsh hh]
    exact claimHeld_waitTested m h
  | none =>
    rw [claimCommand_new hN hn hm hp hsh hh]
    exact claimNew_waitTested m c.s3

end WaitTested

/-! ### The statements -/

/-- Settles O13. -/
theorem claimChecksInOrder : Obligations.ClaimChecksInOrder := fun _ _ _ hdue hN hone =>
  posted_code (exec_claim_due hdue) (claimCommand_checks hN hone)

/-- Settles O14. -/
theorem claimOfAbsentNameCreates : Obligations.ClaimOfAbsentNameCreates := by
  intro s st c m i hdue hm hz ha hi hc hsh
  have hallowed : ¬ (m = .shared ∧ s.defaults.sharedAllowed = false) := fun h => by simp [hsh h.1] at h
  rw [exec_claim_due hdue, claimCommand_absent (c.claimMode_of_byte m hm) hz ha, claimAbsent_created c.name hi hc hallowed,
    grantedResult_loaded]
  rfl

/-- Settles O15. -/
theorem claimReentersHolding : Obligations.ClaimReentersHolding := by
  intro s st c m i r h hdue hN hm hn hp hsh hh hx hd
  have hallowed : ¬ (m = .shared ∧ r.attrs.sharedAllowed = false) := fun h => by simp [hsh h.1] at h
  have hmode : ¬ (h.mode = .shared ∧ m = .exclusive) := fun h => by simp [hx h.2] at h
  rw [exec_claim_due hdue, claimCommand_held hN hn (c.claimMode_of_byte m hm) hp hallowed hh,
    claimHeld_reentered hmode hd, grantedResult_loaded]
  rfl

/-- Settles O16. -/
theorem claimGrantedAtOnce : Obligations.ClaimGrantedAtOnce := by
  intro s st c m i r hdue hN hm hn hp hsh hh hc hg
  have hallowed : ¬ (m = .shared ∧ r.attrs.sharedAllowed = false) := fun h => by simp [hsh h.1] at h
  rw [exec_claim_due hdue, claimCommand_new hN hn (c.claimMode_of_byte m hm) hp hallowed hh, claimNew_granted hc hg,
    grantedResult_loaded]
  rfl

/-- Settles O17: no test refuses the wait, and the entry is the station's one wait. -/
theorem claimQueuedAtTail : Obligations.ClaimQueuedAtTail := by
  intro s st c m i r hdue hN hone hm hn hp hsh hh hc hg hl hwait hroom hchain
  have hallowed : ¬ (m = .shared ∧ r.attrs.sharedAllowed = false) := fun h => by simp [hsh h.1] at h
  have hfree := waitRefusal_none hone r.sorted_claimBlockers hwait hroom fun b hb =>
    hchain b ((r.mem_claimBlockers b).mp hb)
  have hrequest : Request.ofMode m = if m = .shared then .shared else .exclusive := by cases m <;> rfl
  have hexec := exec_claim_due hdue
  rw [claimCommand_new hN hn (c.claimMode_of_byte m hm) hp hallowed hh, claimNew_queued hc hg hl hfree, hrequest] at hexec
  have hrecord := hn.1
  obtain ⟨hwaiting, houtstanding, hname, hcommitment⟩ := wait_entered hone (w := ⟨st, if m = .shared then .shared else
    .exclusive, Deadline.ofLimit c.s3⟩) (r' := { r with queue := r.queue ++ [⟨st, if m = .shared then .shared else
      .exclusive, Deadline.ofLimit c.s3⟩] }) hrecord hwait
    (by simp [Record.line]) (by simp)
    (u := ((s.enterClaimWait i r ⟨st, if m = .shared then .shared else .exclusive, Deadline.ofLimit c.s3⟩).complete st
      ⟨.queued, byteOf (r.queue.length + 1), 0, 0, 0⟩).endTurn st) rfl rfl
  refine ⟨_, hexec, hexec, hwaiting, houtstanding, hname.trans hn.2, hcommitment.trans ?_⟩
  cases m <;> rfl

/-- Settles O18. -/
theorem upgradeChecksInOrder : Obligations.UpgradeChecksInOrder := fun _ _ _ hdue hN hone =>
  posted_code (exec_upgrade_due hdue) (upgradeCommand_checks hN hone)

/-- Settles O20: no test refuses the wait, and the entry is the station's one wait. -/
theorem upgradeQueuedAtHead : Obligations.UpgradeQueuedAtHead := by
  intro s st c i r h hdue hN hone hn hh hm hp ho hl hwait hroom hchain
  have hfree := waitRefusal_none hone (r.sorted_upgradeBlockers st) hwait hroom fun b hb =>
    have hblocker := (r.mem_upgradeBlockers st b).mp hb
    hchain b hblocker.1 hblocker.2
  have hexec := exec_upgrade_due hdue
  rw [upgradeCommand_queued hN hn hh hp hm ho hl hfree] at hexec
  obtain ⟨hwaiting, houtstanding, hname, hcommitment⟩ := wait_entered hone
    (w := ⟨st, .upgrade, Deadline.ofLimit c.s3⟩) (r' := { r with queue := ⟨st, .upgrade, Deadline.ofLimit c.s3⟩ :: r.queue })
    hn.1 hwait (.refl _) List.mem_cons_self
    (u := ((s.enterUpgradeWait i r ⟨st, .upgrade, Deadline.ofLimit c.s3⟩).complete st ⟨.queued, 1, 0, 0, 0⟩).endTurn st) rfl rfl
  exact ⟨_, hexec, hexec, hwaiting, houtstanding, hname.trans hn.2, hcommitment⟩

/-- Settles O21: the blockers of either command are searched in ascending order. -/
theorem deadlockNamesLowestBlocker : Obligations.DeadlockNamesLowestBlocker := by
  intro s t st c i r hN hone hn
  refine ⟨fun hdue h => ?claim, fun hdue h => ?upgrade⟩
  case claim =>
    obtain ⟨hdeadlock, hqueued⟩ := (claimCommand_waitTested (st := st) hN hn).chains hone r.sorted_claimBlockers
    obtain rfl := Host.Outcome.next.inj ((exec_claim_due hdue).symm.trans h)
    rw [posted_result]
    simp only [Record.mem_claimBlockers] at hdeadlock hqueued
    exact ⟨hdeadlock, hqueued⟩
  case upgrade =>
    obtain ⟨hdeadlock, hqueued⟩ :=
      (upgradeCommand_waitTested (st := st) hN hn).chains hone (r.sorted_upgradeBlockers st)
    obtain rfl := Host.Outcome.next.inj ((exec_upgrade_due hdue).symm.trans h)
    rw [posted_result]
    simp only [Record.mem_upgradeBlockers, and_imp, and_assoc] at hdeadlock hqueued
    exact ⟨hdeadlock, hqueued⟩

end Sys2Proof.Machine
end

section
/-!
SUPPORT. The grant rule and the admission of notices in the words of the rules, and the tick at every slot. With it, O26 to O28.
-/

namespace Sys2Proof.Machine

/-! ### The grant rule -/

/-- A state that has changed in its slots, holding counts and contexts alone. -/
theorem State.eq_of_table {s t : State} (hstanding : t.standingCount = s.standingCount) (hdefaults : t.defaults = s.defaults)
    (hlease : t.lease = s.lease) (hpointer : t.turnPointer = s.turnPointer) (houtside : t.outside = s.outside) :
    t = { s with slots := t.slots, holdingCounts := t.holdingCounts, stations := t.stations } := by
  obtain ⟨hpending, hpins, hreset⟩ : t.pending = s.pending ∧ t.dataPins = s.dataPins ∧ t.resetPin = s.resetPin := by
    simpa [State.outside] using houtside
  rw [← hstanding, ← hdefaults, ← hlease, ← hpointer, ← hpending, ← hpins, ← hreset]

theorem Request.granted_eq (q : Request) : q.granted = if q = .shared then .shared else .exclusive := by
  cases q <;> rfl

/-- The notice of a grant, in the words of R37 and R130, for the record as its run of the grant rule began. -/
theorem GrantRun.grantedNotice {full : Option Nat} {r r' : Record} {b : List Waiter} (h : GrantRun full r b r')
    (w : Waiter) : r'.grantedNotice w =
      ⟨.granted, r.name, grantedDetail (if w.request = .shared then .shared else .exclusive) r.taint⟩ := by
  rw [Record.grantedNotice, h.name, h.taint, Request.granted_eq]

theorem State.online_iff (s : State) (a : StationId) : s.online a = true ↔ (s.ctx a).life = .online := by
  simp [State.online]

theorem State.online_eq_false (s : State) (a : StationId) : s.online a = false ↔ (s.ctx a).life ≠ .online := by
  simp [State.online]

/-- Settles O26. -/
theorem grantRuleRunsThenRetirement : Obligations.GrantRuleRunsThenRetirement := by
  intro s i r hr
  have hrun := settleRun_spec s r
  obtain ⟨hretired, hkept⟩ := s.record_settle i r hr
  refine ⟨(settleRun s r).2, (settleRun s r).1, hrun, hretired, hkept, fun j hj => s.record_settle_ne i j hj,
    fun a => s.holdingCount_settle i r hr a, fun a => ?_, ?_⟩
  · have hnotice : (settleRun s r).1.grantedNotice = fun w =>
        ⟨.granted, r.name, grantedDetail (if w.request = .shared then .shared else .exclusive) r.taint⟩ :=
      funext fun w => hrun.grantedNotice w
    rw [s.notices_settle i r hr a, hnotice]
    simp only [State.online_iff]
  · exact State.eq_of_table (s.settle_standingCount i) (s.settle_defaults i) (s.settle_lease i) (s.settle_turnPointer i)
      (outside_settle s i)

/-! ### The admission of a notice -/

theorem State.noticeRoom_waiting {s : State} {a : StationId} (h : s.Waiting a) : s.noticeRoom a = 7 :=
  if_pos ((s.hasWait_iff a).mpr h)

theorem State.noticeRoom_of_not_waiting {s : State} {a : StationId} (h : ¬ s.Waiting a) : s.noticeRoom a = 8 :=
  if_neg (mt (s.hasWait_iff a).mp h)

theorem NoticeKind.isWaitOutcome_iff (k : NoticeKind) :
    k.isWaitOutcome = true ↔ k = .granted ∨ k = .timedOut ∨ k = .withdrawn := by
  cases k <;> simp [NoticeKind.isWaitOutcome]

/-- A notice that finds room enters the queue of an ONLINE station (R134). -/
theorem State.queueNotice_room {s : State} {a : StationId} (n : Notice) (ho : s.online a = true)
    (hroom : (s.ctx a).notices.length < s.noticeRoom a) : s.queueNotice a n = s.pushNotice a n := by
  rw [State.queueNotice, if_pos ho, if_pos (by simp [hroom])]

/-- The discard of a REVOKED or WARNING sets NOTICE LOST (R136). -/
theorem State.queueNotice_lost {s : State} {a : StationId} {n : Notice} (ho : s.online a = true)
    (hkind : n.kind.isWaitOutcome = false) (hfull : s.noticeRoom a ≤ (s.ctx a).notices.length) :
    s.queueNotice a n = s.modifyCtx a fun x => { x with noticeLost := true } := by
  rw [State.queueNotice, if_pos ho, if_neg (by simp [hkind, hfull])]

/-- Settles O27. -/
theorem noticeAdmissionRule : Obligations.NoticeAdmissionRule := by
  intro s a n
  refine ⟨fun ho => s.queueNotice_offline a n ((s.online_eq_false a).mpr ho), fun ho hadmitted => ?_,
    fun ho hkind hfull => ?_⟩
  · have ho := (s.online_iff a).mpr ho
    have hentered : s.queueNotice a n = s.pushNotice a n := by
      rcases hadmitted with hk | hk | hk | ⟨hw, hlt⟩ | ⟨hw, hlt⟩
      · exact s.queueNotice_outcome a n ho (n.kind.isWaitOutcome_iff.mpr (.inl hk))
      · exact s.queueNotice_outcome a n ho (n.kind.isWaitOutcome_iff.mpr (.inr (.inl hk)))
      · exact s.queueNotice_outcome a n ho (n.kind.isWaitOutcome_iff.mpr (.inr (.inr hk)))
      · exact State.queueNotice_room n ho (by rwa [State.noticeRoom_of_not_waiting hw])
      · exact State.queueNotice_room n ho (by rwa [State.noticeRoom_waiting hw])
    exact hentered
  · have hoperational : n.kind.isWaitOutcome = false := by rcases hkind with hk | hk <;> rw [hk] <;> rfl
    refine State.queueNotice_lost ((s.online_iff a).mpr ho) hoperational ?_
    rcases hfull with ⟨hw, hle⟩ | ⟨hw, hle⟩
    · rwa [State.noticeRoom_of_not_waiting hw]
    · rwa [State.noticeRoom_waiting hw]

/-! ### The tick -/

/-- The whole tick is the tick at each slot in ascending order (R73). -/
theorem tick_eq_foldl_tickAt (s : State) : s.tick = allSlots.foldl State.tickAt (s.setPrescaler 0) := by
  have hslot : State.tickAt = State.tickSlot := funext fun u => funext fun i => u.tickAt_eq i
  rw [hslot]
  rfl

theorem tick_leaves {s : State} {i : SlotId} {r : Record} (hr : s.record i = some r) : s.TickLeaves s.tick i r :=
  State.tickTable_leaves (s.setPrescaler 0) i r hr

theorem tick_same (s : State) (a : StationId) : SameButNotices (s.ctx a) (s.tick.ctx a) :=
  (s.setPrescaler 0).tickTable_same a

theorem tick_offlineKept (s : State) : s.OfflineKept s.tick := offlineKept_tickTable (s.setPrescaler 0)

theorem tick_record_none {s : State} {i : SlotId} (h : s.record i = none) : s.tick.record i = none := by
  rw [State.tick, State.record_tickTable, State.record_setPrescaler, h]
  rfl

/-- A record in which no lease and no deadline comes to 0: the tick ends nothing of it. -/
structure Record.Lasting (r : Record) : Prop where
  leases : ∀ a, ∀ h ∈ r.holding a, ∀ n ∈ h.lease, 2 ≤ n
  deadlines : ∀ w ∈ r.queue, ∀ n, w.deadline = .ticks n → 2 ≤ n

namespace Record.Lasting

variable {r : Record} (hr : r.Lasting)
include hr

theorem not_expiring (a : StationId) : ¬ r.Expiring a := by
  rintro ⟨h, hh, n, hn, hle⟩
  have hlease := hr.leases a h hh n hn
  omega

theorem endedNotice {w : Waiter} (hw : w ∈ r.queue) : r.endedNotice w = none := by
  unfold Record.endedNotice
  rw [if_neg fun h => hr.not_expiring w.station h.2]
  split
  · rfl
  · next n hd =>
    have hdeadline := hr.deadlines w hw n hd
    exact if_neg (by omega)

theorem not_tickEnds : ¬ r.TickEnds := by
  rintro (⟨a, ha⟩ | ⟨w, hw, hended⟩)
  · exact hr.not_expiring a ha
  · exact hended (hr.endedNotice hw)

/-- Where nothing ends, every lease and every finite deadline falls by 1, and nothing else of the record changes. -/
theorem countedDown : r.countedDown = { r with
    holders := r.holders.map fun o => o.map fun h => { h with lease := h.lease.map (· - 1) }
    queue := r.queue.map fun w => { w with deadline := match w.deadline with
      | .ticks n => .ticks (n - 1)
      | .unlimited => .unlimited } } := by
  refine Record.ext_holding _ _ rfl rfl rfl (fun a => ?holding) ?queue ?taint
  case holding =>
    show (r.holders.map _)[a] = (r.holders.map _)[a]
    simp only [Fin.getElem_fin, Vector.getElem_map]
    show Option.bind (r.holding a) _ = Option.map _ (r.holding a)
    cases hh : r.holding a with
    | none => rfl
    | some h =>
      obtain ⟨mode, depth, lease⟩ := h
      cases lease with
      | none => rfl
      | some n =>
        have hn := hr.leases a _ hh n rfl
        exact if_neg (by omega)
  case queue =>
    show List.filterMap _ r.queue = List.map _ r.queue
    rw [← List.filterMap_eq_map]
    refine List.filterMap_congr fun w hw => ?_
    rw [hr.endedNotice hw]
    rfl
  case taint =>
    have hnone : (allStations.find? fun a => decide (r.Expiring a ∧ ∃ h ∈ r.holding a, h.mode = .exclusive)) = none :=
      List.find?_eq_none.mpr fun a _ h => hr.not_expiring a (of_decide_eq_true h).1
    show (match allStations.find? fun a => decide (r.Expiring a ∧ ∃ h ∈ r.holding a, h.mode = .exclusive) with
      | some a => some a
      | none => r.taint) = r.taint
    rw [hnone]

end Record.Lasting

/-- The part when the notices of a record's holdings have come to enter, with the waits as they still stand (R73, R134). -/
def State.tickJudged (s : State) (r : Record) : State :=
  s.queueNotices (r.holdingNotices (s.leaseClass r.attrs.leaseClass).warn)

/-- The part when the tick has then changed the record, and lowered the counts of its expired holders (R81). -/
def State.tickLowered (s : State) (i : SlotId) (r : Record) : State :=
  ((s.tickJudged r).setRecord i (some r.ticked)).lowerExpired r

theorem tickChanged_eq (s : State) (i : SlotId) (r : Record) :
    tickChanged s i r = (s.tickLowered i r).queueNotices r.waiterNotices := rfl

theorem ctx_tickLowered (s : State) (i : SlotId) (r : Record) (a : StationId) :
    (s.tickLowered i r).ctx a = (s.tickJudged r).ctx a := by
  rw [State.tickLowered, State.ctx, State.lowerExpired_stations]
  rfl

theorem tickChanged_grown_tickJudged (s : State) (i : SlotId) (r : Record) (a : StationId) :
    Grown ((s.tickJudged r).ctx a) ((tickChanged s i r).ctx a) := by
  rw [tickChanged_eq, ← ctx_tickLowered s i r a]
  exact State.queueNotices_grown _ r.waiterNotices a

theorem tickSlot_grown_tickChanged {s : State} {i : SlotId} {r : Record} (hr : s.record i = some r) (a : StationId) :
    Grown ((tickChanged s i r).ctx a) ((s.tickSlot i).ctx a) := by
  rw [s.tickSlot_some i r hr]
  split
  · exact State.settle_grown _ i a
  · exact .refl _

/-- The part as the tick finds it at one slot, and the whole tick from that slot on. -/
theorem tick_split (s : State) (i : SlotId) : ∃ u : State, u.record i = s.record i ∧ u.lease.classes = s.lease.classes
    ∧ (∀ a, Grown (s.ctx a) (u.ctx a)) ∧ (∀ a, u.online a = s.online a)
    ∧ ∀ a, Grown ((u.tickSlot i).ctx a) (s.tick.ctx a) := by
  obtain ⟨u, v, hrecord, hlease, hbefore, hsame, rfl, hafter⟩ := (s.setPrescaler 0).tickTable_split i
  exact ⟨u, hrecord, by rw [hlease]; rfl, hbefore, fun a => by rw [State.online, (hsame a).life]; rfl, hafter⟩

/-- A notice that the tick gives for a holding enters its ONLINE station's queue, or finds it full (R79 to R81, R134). -/
theorem tick_holdingNotice {s : State} {i : SlotId} {r : Record} {a : StationId} {n : Notice} (hr : s.record i = some r)
    (hn : (a, n) ∈ r.holdingNotices (s.leaseClass r.attrs.leaseClass).warn) (ho : s.online a = true) :
    s.EntersOrLost s.tick a n := by
  obtain ⟨u, hrecord, hclasses, hbefore, honline, hafter⟩ := tick_split s i
  have hur : u.record i = some r := hrecord.trans hr
  have hwarn : u.leaseClass r.attrs.leaseClass = s.leaseClass r.attrs.leaseClass := by
    rw [State.leaseClass, hclasses]
    rfl
  have hjudged : u.EntersOrLost (u.tickJudged r) a n :=
    u.queueNotices_entersOrLost _ a n (by rwa [hwarn]) ((honline a).trans ho)
  have hslot := (tickChanged_grown_tickJudged u i r a).trans (tickSlot_grown_tickChanged hur a)
  exact (hjudged.grown (hslot.trans (hafter a))).after (hbefore a)

/-- A holding whose count comes to a warn value above 0 is warned of (R79). -/
theorem mem_holdingNotices_warning {r : Record} {a : StationId} {h : Holding} {n : Nat} {warn : Byte}
    (hh : r.holding a = some h) (hl : h.lease = some n) (hn : 2 ≤ n) (hw : n - 1 = warn.toNat) :
    (a, ⟨.warning, r.name, warn⟩) ∈ r.holdingNotices warn := by
  rw [← r.heldNotices_eq]
  refine List.mem_filterMap.mpr ⟨a, mem_allStations a, ?_⟩
  rw [hh]
  dsimp only
  rw [hl]
  dsimp only
  rw [if_neg (by omega), if_pos (by omega)]

/-- Settles O28. -/
theorem leaseTickCountsDown : Obligations.LeaseTickCountsDown := by
  intro s hreset
  refine ⟨fun hstopped => unlessReset_of_fixed (nextTick_stopped hstopped), fun hrunning => ⟨s.tick,
    exec_leaseTick hreset hrunning, ?frame, tick_eq_foldl_tickAt s, fun i r hr => tick_leaves hr, fun a => tick_same s a,
    tick_offlineKept s, fun i hi => tick_record_none hi, fun i r hr hleases hdeadlines => ?lasting,
    fun i r a h n hr hh hl hn hw ho => ?warning⟩⟩
  case frame =>
    exact State.eq_of_table (s := s.setPrescaler 0) (State.tickTable_standingCount _) (State.tickTable_defaults _)
      (State.tickTable_lease _) (State.tickTable_turnPointer _) (outside_tick s)
  case lasting =>
    have hlasting : r.Lasting := ⟨hleases, hdeadlines⟩
    exact ((tick_leaves hr).1 hlasting.not_tickEnds).trans (congrArg some hlasting.countedDown)
  case warning =>
    exact tick_holdingNotice hr (mem_holdingNotices_warning hh hl hn hw) ((s.online_iff a).mpr ho)

end Sys2Proof.Machine
end

section
/-!
SUPPORT. The holdings and waits that a tick ends (03 sections 3.3 and 3.4). With it, O29 to O31.
-/

namespace Sys2Proof.Machine

/-! ### The record that the tick leaves -/

/-- A station that is not in line keeps its holding, or its lack of one, through a run of the grant rule. -/
theorem GrantRun.holding_of_not_mem_line {full : Option Nat} {r r' : Record} {b : List Waiter} (h : GrantRun full r b r')
    {a : StationId} (ha : a ∉ r.line) : r'.holding a = r.holding a := by
  refine h.holding_of_not_mem a fun w hw hst => ha ?_
  rw [h.line]
  exact List.mem_append_left _ (List.mem_map.mpr ⟨w, hw, hst⟩)

section

variable {s : State} {i : SlotId} {r : Record} (hr : s.record i = some r) (hends : r.TickEnds)
include hr hends

/-- Where the tick ends anything of a record, what is left in its slot is the end of a run of the grant rule (R57). -/
theorem tick_record_mem {r' : Record} (hr' : r' ∈ s.tick.record i) :
    ∃ batch, GrantRun (loadedLease s r.attrs.leaseClass) r.ticked batch r' := by
  obtain ⟨batch, q, hrun, hretired, hkept⟩ := (tick_leaves hr).2 hends
  rw [r.countedDown_eq] at hrun
  by_cases ht : q.ToRetire
  · rw [hretired ht] at hr'
    exact absurd hr' (by simp)
  · rw [hkept ht] at hr'
    obtain rfl := Option.some.inj hr'
    exact ⟨batch, hrun⟩

/-- The record stays where no end of that run may be retired (R40). -/
theorem tick_record_stays
    (hstays : ∀ batch r', GrantRun (loadedLease s r.attrs.leaseClass) r.ticked batch r' → ¬ r'.ToRetire) :
    ∃ batch r', s.tick.record i = some r' ∧ GrantRun (loadedLease s r.attrs.leaseClass) r.ticked batch r' := by
  obtain ⟨batch, q, hrun, -, hkept⟩ := (tick_leaves hr).2 hends
  rw [r.countedDown_eq] at hrun
  exact ⟨batch, q, hkept (hstays batch q hrun), hrun⟩

/-- A station out of line when the record has been counted down has then the holding that it has after the tick. -/
theorem tick_holding {a : StationId} (ha : a ∉ r.ticked.line) :
    ∀ r' ∈ s.tick.record i, r'.holding a = (r.holding a).bind Holding.ticked := by
  intro r' hr'
  obtain ⟨batch, hrun⟩ := tick_record_mem hr hends hr'
  rw [hrun.holding_of_not_mem_line ha, Record.holding_ticked]

end

/-! ### The line after the tick -/

/-- The stations whose entries last through the tick stay in line (R55, R56). -/
theorem Record.mem_line_ticked {r : Record} {a : StationId} :
    a ∈ r.ticked.line ↔ ∃ w ∈ r.queue, w.station = a ∧ r.waiterEnd w = none := by
  constructor
  · intro ha
    obtain ⟨v, hv, rfl⟩ := List.mem_map.mp ha
    obtain ⟨w, hw, hlasts⟩ := List.mem_filterMap.mp hv
    rw [Option.ite_none_left_eq_some, Option.not_isSome_iff_eq_none] at hlasts
    obtain ⟨hend, hv⟩ := hlasts
    obtain rfl := Option.some.inj hv
    exact ⟨w, hw, rfl, hend⟩
  · rintro ⟨w, hw, rfl, hend⟩
    refine List.mem_map.mpr ⟨{ w with deadline := w.deadline.ticked }, List.mem_filterMap.mpr ⟨w, hw, ?_⟩, rfl⟩
    rw [if_neg (by simp [hend])]

section

variable {s : State} (hone : s.OneWaitLaw) {i : SlotId} {r : Record} (hr : s.record i = some r) {w : Waiter}
  (hw : w ∈ r.queue) {n : Notice} (hend : r.waiterEnd w = some n)
include hone hr hw hend

/-- A station's only entry, ended by the tick, takes the station out of line. -/
theorem not_mem_line_ticked : w.station ∉ r.ticked.line := by
  intro hmem
  obtain ⟨v, hv, hst, hlasts⟩ := Record.mem_line_ticked.mp hmem
  obtain ⟨-, rfl⟩ := hone.unique hr hw rfl hr hv hst
  rw [hend] at hlasts
  exact absurd hlasts (by simp)

omit hone hr in
theorem tickEnds_of_waiterEnd : r.TickEnds := .inr ⟨w, hw, by rw [r.endedNotice_eq, hend]; simp⟩

/-- A station whose wait the tick ends has no wait after it: it was in no other line, and it gains no place (R52). -/
theorem not_waiting_tick : ¬ s.tick.Waiting w.station := by
  rw [State.waiting_iff_mem_line]
  rintro ⟨j, r', hr', hmem⟩
  obtain ⟨q, hq, hkept⟩ := keptOut_tickTable (b := w.station) (s.setPrescaler 0) j r' hr' (.inl hmem)
  obtain ⟨v, hv, hst⟩ := List.mem_map.mp (hkept.1 hmem)
  obtain ⟨rfl, rfl⟩ := hone.unique hr hw rfl hq hv hst
  obtain ⟨batch, hrun⟩ := tick_record_mem hr (tickEnds_of_waiterEnd hw hend) hr'
  refine not_mem_line_ticked hone hr hw hend ?_
  rw [hrun.line]
  exact List.mem_append_right _ hmem

omit hone hr in
theorem mem_waiterNotices : (w.station, n) ∈ r.waiterNotices := by
  refine List.mem_filterMap.mpr ⟨w, hw, ?_⟩
  rw [hend]
  rfl

end

/-! ### A holding that expires -/

section

variable {r : Record} {a : StationId} {h : Holding} (hh : r.holding a = some h) (hl : h.lease = some 1)
include hh hl

theorem Record.expiring_of_lease_one : r.Expiring a := ⟨h, hh, 1, hl, le_rfl⟩

theorem Record.holding_ticked_of_lease_one : (r.holding a).bind Holding.ticked = none := by
  have hexpires : h.expires = true := h.expires_iff.mpr ⟨1, hl, le_rfl⟩
  rw [hh, Option.bind_some, Holding.ticked, if_pos hexpires]

/-- The end of a holding comes with a REVOKED, with the mode held (R81). -/
theorem mem_holdingNotices_revoked (warn : Byte) :
    (a, ⟨.revoked, r.name, if h.mode = .shared then 0 else 1⟩) ∈ r.holdingNotices warn := by
  rw [← r.heldNotices_eq]
  refine List.mem_filterMap.mpr ⟨a, mem_allStations a, ?_⟩
  rw [hh]
  dsimp only
  rw [hl]
  dsimp only
  rw [if_pos le_rfl]

/-- An exclusive holding that expires taints the record with its station, who held alone (R87). -/
theorem Record.tickedTaint_of_exclusive (hx : h.mode = .exclusive) (halone : r.ExclusiveAlone) :
    r.tickedTaint = some a := by
  have hexpires : h.expires = true := h.expires_iff.mpr ⟨1, hl, le_rfl⟩
  have hfound : (allStations.find? fun st => (r.holding st).any fun g => g.expires && g.mode == .exclusive) = some a := by
    obtain ⟨b, hb⟩ : ∃ b, (allStations.find? fun st => (r.holding st).any fun g => g.expires && g.mode == .exclusive) =
        some b := by
      rw [← Option.isSome_iff_exists, List.find?_isSome]
      exact ⟨a, mem_allStations a, by simp [hh, hexpires, hx]⟩
    have hholds := List.find?_some hb
    have hba : b = a := by
      by_contra hne
      rw [halone a ⟨h, hh, hx⟩ b hne] at hholds
      exact absurd hholds (by simp)
    rw [hb, hba]
  rw [Record.tickedTaint, hfound]

/-- Where every claim waiter holds nothing, a holder that expires waits here for its upgrade at most, and that ends too
(R67). -/
theorem Record.not_mem_line_ticked_of_expiring (hnothing : r.claimWaitersHoldNothing = true) : a ∉ r.ticked.line := by
  intro hmem
  obtain ⟨w, hw, rfl, hend⟩ := Record.mem_line_ticked.mp hmem
  have hholds : r.holds w.station = true := by rw [Record.holds, hh]; rfl
  have hrequest : w.request = .upgrade := by
    simpa [hholds] using List.all_eq_true.mp hnothing w hw
  rw [Record.waiterEnd, if_pos ⟨hrequest, (r.expiresAt_iff w.station).mpr (Record.expiring_of_lease_one hh hl)⟩] at hend
  exact absurd hend (by simp)

end

theorem Record.tickedTaint_of_noExclusiveHolder {r : Record} (h : r.NoExclusiveHolder) : r.tickedTaint = r.taint := by
  have hnone : (allStations.find? fun st => (r.holding st).any fun g => g.expires && g.mode == .exclusive) = none := by
    refine List.find?_eq_none.mpr fun a _ hany => ?_
    rw [Option.any_eq_true] at hany
    obtain ⟨g, hg, hexpires⟩ := hany
    rw [Bool.and_eq_true, beq_iff_eq] at hexpires
    exact h a g hg hexpires.2
  rw [Record.tickedTaint, hnone]

theorem exec_leaseExpiry {s : State} {a : StationId} {i : SlotId} {r : Record} (hreset : s.resetPin = false)
    (hrunning : s.lease.running = true) (hr : s.record i = some r) (hexpiring : r.Expiring a) :
    exec (.leaseExpiry a i) s = .next s.tick := by
  have hdue : s.expiryDue a i = true := by
    rw [State.expiryDue, hr]
    exact (r.expiresAt_iff a).mpr hexpiring
  show unlessReset s _ = _
  rw [unlessReset_low s _ hreset, if_pos hdue, nextTick_running hrunning]

/-- Settles O29. -/
theorem leaseExpiryRemovesHolding : Obligations.LeaseExpiryRemovesHolding := by
  intro s a i r h hreset hrunning hr hh hl hnothing
  have hexpiring := Record.expiring_of_lease_one hh hl
  have hends : r.TickEnds := .inl ⟨a, hexpiring⟩
  refine ⟨s.tick, exec_leaseExpiry hreset hrunning hr hexpiring, exec_leaseTick hreset hrunning, hends, tick_leaves hr,
    ?gone, fun hx halone => ?tainted, fun hshared r' hr' => ?untainted, fun ho => ?told, tick_offlineKept s a⟩
  case gone =>
    have hout := Record.not_mem_line_ticked_of_expiring hh hl hnothing
    intro r' hr'
    rw [tick_holding hr hends hout r' hr', Record.holding_ticked_of_lease_one hh hl]
  case tainted =>
    have htaint : r.ticked.taint = some a :=
      Record.tickedTaint_of_exclusive hh hl hx (r.exclusiveAlone_iff.mp halone)
    obtain ⟨batch, r', hr', hrun⟩ := tick_record_stays hr hends fun batch r' hrun hretire => by
      obtain ⟨-, -, -, hnone⟩ := hretire
      rw [hrun.taint, htaint] at hnone
      exact absurd hnone (by simp)
    exact ⟨r', hr', hrun.taint.trans htaint⟩
  case untainted =>
    obtain ⟨batch, hrun⟩ := tick_record_mem hr hends hr'
    exact hrun.taint.trans (Record.tickedTaint_of_noExclusiveHolder hshared)
  case told => exact tick_holdingNotice hr (mem_holdingNotices_revoked hh hl _) ((s.online_iff a).mpr ho)

/-! ### A wait that times out -/

/-- A notice enters a station's queue between two states, behind those that stood in it. -/
def State.Enters (s t : State) (a : StationId) (n : Notice) : Prop :=
  ∃ new, (t.ctx a).notices = (s.ctx a).notices ++ new ∧ n ∈ new

namespace State.Enters

variable {s u t : State} {a : StationId} {n : Notice}

theorem grown (h : s.Enters u a n) (k : Grown (u.ctx a) (t.ctx a)) : s.Enters t a n := by
  obtain ⟨new, hnew, hmem⟩ := h
  obtain ⟨⟨more, hmore⟩, -⟩ := k
  exact ⟨new ++ more, by rw [hmore, hnew, List.append_assoc], List.mem_append_left _ hmem⟩

theorem after (h : u.Enters t a n) (k : Grown (s.ctx a) (u.ctx a)) : s.Enters t a n := by
  obtain ⟨⟨old, hold⟩, -⟩ := k
  obtain ⟨new, hnew, hmem⟩ := h
  exact ⟨old ++ new, by rw [hnew, hold, List.append_assoc], List.mem_append_right _ hmem⟩

end State.Enters

/-- A wait outcome of an ONLINE station is always admitted (R134). -/
theorem State.queueNotices_enters {s : State} {ns : List (StationId × Notice)} {a : StationId} {n : Notice}
    (hm : (a, n) ∈ ns) (hkind : n.kind.isWaitOutcome = true) (ho : s.online a = true) :
    s.Enters (s.queueNotices ns) a n := by
  induction ns generalizing s with
  | nil => exact absurd hm (by simp)
  | cons x xs ih =>
    rcases List.mem_cons.mp hm with rfl | hm
    · have hentered : s.Enters (s.queueNotice a n) a n :=
        ⟨[n], by rw [s.queueNotice_outcome a n ho hkind, State.pushNotice, State.ctx_modifyCtx_same], by simp⟩
      exact hentered.grown (State.queueNotices_grown _ xs a)
    · exact (ih hm ((s.online_queueNotice x.1 a x.2).trans ho)).after (s.queueNotice_grown x.1 a x.2)

/-- A tick tells an ONLINE station of the end of its wait (R56, R67). -/
theorem tick_waiterNotice {s : State} {i : SlotId} {r : Record} {a : StationId} {n : Notice} (hr : s.record i = some r)
    (hn : (a, n) ∈ r.waiterNotices) (hkind : n.kind.isWaitOutcome = true) (ho : s.online a = true) :
    s.Enters s.tick a n := by
  obtain ⟨u, hrecord, -, hbefore, honline, hafter⟩ := tick_split s i
  have hur : u.record i = some r := hrecord.trans hr
  have hjudged : Grown (u.ctx a) ((u.tickLowered i r).ctx a) := by
    rw [ctx_tickLowered]
    exact u.queueNotices_grown _ a
  have hlowered : (u.tickLowered i r).online a = true := by
    rw [State.online, ctx_tickLowered, State.tickJudged, (u.queueNotices_same _ a).life]
    exact (honline a).trans ho
  have hchanged : u.Enters (tickChanged u i r) a n := by
    rw [tickChanged_eq]
    exact (State.queueNotices_enters hn hkind hlowered).after hjudged
  exact (hchanged.grown ((tickSlot_grown_tickChanged hur a).trans (hafter a))).after (hbefore a)

/-- The end of a wait whose deadline reaches 0, but for an upgrade wait whose holding expires (R55, R56, R67). -/
theorem Record.waiterEnd_timedOut {r : Record} {w : Waiter} (hd : w.deadline = .ticks 1)
    (hkept : ¬ (w.request = .upgrade ∧ r.Expiring w.station)) :
    r.waiterEnd w = some ⟨.timedOut, r.name, match w.request with | .shared => 0 | .exclusive => 1 | .upgrade => 2⟩ := by
  rw [← r.endedNotice_eq, Record.endedNotice, if_neg hkept, hd]
  rfl

theorem exec_waitTimeOut {s : State} {i : SlotId} {r : Record} {w : Waiter} (hreset : s.resetPin = false)
    (hrunning : s.lease.running = true) (hone : s.OneWaitLaw) (hr : s.record i = some r) (hw : w ∈ r.queue)
    (hd : w.deadline = .ticks 1) (hkept : ¬ (w.request = .upgrade ∧ r.Expiring w.station)) :
    exec (.waitTimeOut w.station) s = .next s.tick := by
  have hdue : s.timeOutDue w.station = true := by
    rw [State.timeOutDue, (s.waitOf_eq_some hone w.station i r w).mpr ⟨hr, hw, rfl⟩, ← r.expiresAt_iff] at *
    have hexpires : w.deadline.expires = true := w.deadline.expires_iff.mpr ⟨1, hd, le_rfl⟩
    simpa [hexpires, ← imp_iff_not_or] using hkept
  show unlessReset s _ = _
  rw [unlessReset_low s _ hreset, if_pos hdue, nextTick_running hrunning]

/-- A holding that does not expire is lowered and kept (R79). -/
theorem Holding.ticked_of_lasting {h : Holding} (hl : ∀ n ∈ h.lease, 2 ≤ n) :
    h.ticked = some { h with lease := h.lease.map (· - 1) } := by
  refine if_neg fun hexpires => ?_
  obtain ⟨n, hn, hle⟩ := h.expires_iff.mp hexpires
  have := hl n hn
  omega

/-- Settles O30. -/
theorem waitTimeOutEndsWait : Obligations.WaitTimeOutEndsWait := by
  intro s a i r w hreset hrunning hone hr hw hst hd hlasts
  subst hst
  have hkept : ¬ (w.request = .upgrade ∧ r.Expiring w.station) := by
    rintro ⟨hrequest, h, hh, n, hn, hle⟩
    have := hlasts hrequest h hh n hn
    omega
  have hend := Record.waiterEnd_timedOut hd hkept
  have hends := tickEnds_of_waiterEnd hw hend
  have hout := not_mem_line_ticked hone hr hw hend
  refine ⟨s.tick, exec_waitTimeOut hreset hrunning hone hr hw hd hkept, exec_leaseTick hreset hrunning, hends,
    tick_leaves hr, not_waiting_tick hone hr hw hend, fun ho => ?told, fun hnone r' hr' => ?nothing,
    fun h hrequest hh => ?upgrade⟩
  case told => exact tick_waiterNotice hr (mem_waiterNotices hw hend) rfl ((s.online_iff w.station).mpr ho)
  case nothing => rw [tick_holding hr hends hout r' hr', hnone]; rfl
  case upgrade =>
    have hticked : r.ticked.holding w.station = some { h with lease := h.lease.map (· - 1) } := by
      rw [Record.holding_ticked, hh]
      exact Holding.ticked_of_lasting (hlasts hrequest h hh)
    have hholds (batch r') (hrun : GrantRun (loadedLease s r.attrs.leaseClass) r.ticked batch r') :=
      (hrun.holding_of_not_mem_line hout).trans hticked
    obtain ⟨batch, r', hr', hrun⟩ := tick_record_stays hr hends fun batch r' hrun hretire => by
      obtain ⟨-, hnone, -, -⟩ := hretire
      exact absurd ((hnone w.station).symm.trans (hholds batch r' hrun)) (by simp)
    exact ⟨r', hr', hholds batch r' hrun⟩

/-! ### A lease that runs out under an upgrade wait -/

/-- Notices for other stations change nothing of a station. -/
theorem ctx_queueNotices_of_not_mem (s : State) {ns : List (StationId × Notice)} {a : StationId}
    (h : a ∉ ns.map Prod.fst) : (s.queueNotices ns).ctx a = s.ctx a := by
  induction ns generalizing s with
  | nil => rfl
  | cons x xs ih =>
    rw [List.map_cons, List.mem_cons, not_or] at h
    exact (ih (s.queueNotice x.1 x.2) h.2).trans (s.ctx_queueNotice_ne x.1 a x.2 h.1)

/-- Notices that come to enter stand in the list, where a station has one of them, before and behind it. -/
theorem queueNotices_append_cons (s : State) (before behind : List (StationId × Notice)) (a : StationId) (n : Notice) :
    s.queueNotices (before ++ (a, n) :: behind) = ((s.queueNotices before).queueNotice a n).queueNotices behind :=
  List.foldl_append ..

/-- A station's only notice among several enters last in its queue, or is lost. -/
theorem queueNotices_last_or_lost {s : State} {ns : List (StationId × Notice)} {a : StationId} {n : Notice}
    (hm : (a, n) ∈ ns) (hnodup : (ns.map Prod.fst).Nodup) (ho : s.online a = true) :
    (∃ pre, ((s.queueNotices ns).ctx a).notices = pre ++ [n]) ∨ ((s.queueNotices ns).ctx a).noticeLost = true := by
  obtain ⟨before, behind, rfl⟩ := List.append_of_mem hm
  rw [List.map_append, List.map_cons, List.nodup_middle, List.nodup_cons, List.mem_append, not_or] at hnodup
  obtain ⟨⟨-, hbehind⟩, -⟩ := hnodup
  have hb : (s.queueNotices before).online a = true := by
    rw [State.online, (s.queueNotices_same before a).life]
    exact ho
  rw [queueNotices_append_cons, ctx_queueNotices_of_not_mem _ hbehind, State.queueNotice, if_pos hb]
  split
  · exact .inl ⟨((s.queueNotices before).ctx a).notices, by rw [State.pushNotice, State.ctx_modifyCtx_same]⟩
  · exact .inr (by rw [State.ctx_modifyCtx_same])

/-- A station's only notice among several, where it is a wait outcome, is all that becomes of the station. -/
theorem ctx_queueNotices_outcome {s : State} {ns : List (StationId × Notice)} {a : StationId} {n : Notice}
    (hm : (a, n) ∈ ns) (hnodup : (ns.map Prod.fst).Nodup) (hkind : n.kind.isWaitOutcome = true)
    (ho : s.online a = true) :
    (s.queueNotices ns).ctx a = { s.ctx a with notices := (s.ctx a).notices ++ [n] } := by
  obtain ⟨before, behind, rfl⟩ := List.append_of_mem hm
  rw [List.map_append, List.map_cons, List.nodup_middle, List.nodup_cons, List.mem_append, not_or] at hnodup
  obtain ⟨⟨hbefore, hbehind⟩, -⟩ := hnodup
  have hctx := ctx_queueNotices_of_not_mem s hbefore
  have hb : (s.queueNotices before).online a = true := by
    rw [State.online, hctx]
    exact ho
  rw [queueNotices_append_cons, ctx_queueNotices_of_not_mem _ hbehind, State.queueNotice_outcome _ a n hb hkind,
    State.pushNotice, State.ctx_modifyCtx_same, hctx]

/-- The tick gives a station one notice at most for its holding of a record. -/
theorem Record.nodup_holdingNotices (r : Record) (warn : Byte) : ((r.holdingNotices warn).map Prod.fst).Nodup := by
  rw [Record.holdingNotices, List.map_filterMap]
  refine List.Nodup.filterMap (fun b c x hb hc => ?_) (List.nodup_finRange 8)
  have hof (st : StationId) (hx : x ∈ Option.map Prod.fst
      (Option.map (fun n => (st, n)) ((r.holding st).bind fun h => h.tickNotice r.name warn))) : st = x := by
    obtain ⟨_, hn, rfl⟩ := Option.map_eq_some_iff.mp hx
    obtain ⟨_, -, rfl⟩ := Option.map_eq_some_iff.mp hn
    rfl
  exact (hof b hb).trans (hof c hc).symm

/-- With one wait for each station, the tick gives a station one notice at most for its waits at a record. -/
theorem Record.nodup_waiterNotices {r : Record} (hline : r.line.Nodup) : (r.waiterNotices.map Prod.fst).Nodup :=
  (r.ticked_perm_line.nodup_iff.mpr hline).sublist (List.sublist_append_left _ _)

/-- The time-outs that a station has been told of and has not taken. -/
def State.timeOuts (s : State) (a : StationId) : Nat :=
  (s.ctx a).notices.countP fun n => decide (n.kind = .timedOut)

theorem timeOuts_queueNotice (s : State) {a b : StationId} {n : Notice} (h : b = a → n.kind ≠ .timedOut) :
    (s.queueNotice b n).timeOuts a = s.timeOuts a := by
  by_cases hb : b = a
  · subst hb
    unfold State.queueNotice
    split
    · split
      · rw [State.timeOuts, State.pushNotice, State.ctx_modifyCtx_same, List.countP_append]
        simp [h rfl, State.timeOuts]
      · rw [State.timeOuts, State.ctx_modifyCtx_same]
        rfl
    · rfl
  · rw [State.timeOuts, s.ctx_queueNotice_ne b a n (Ne.symm hb), State.timeOuts]

theorem timeOuts_queueNotices (s : State) {a : StationId} {ns : List (StationId × Notice)}
    (h : ∀ n, (a, n) ∈ ns → n.kind ≠ .timedOut) : (s.queueNotices ns).timeOuts a = s.timeOuts a := by
  induction ns generalizing s with
  | nil => rfl
  | cons x xs ih =>
    have hhead : x.1 = a → x.2.kind ≠ .timedOut := fun hx => h x.2 (hx ▸ List.mem_cons_self)
    exact (ih (s.queueNotice x.1 x.2) fun n hn => h n (List.mem_cons_of_mem _ hn)).trans (timeOuts_queueNotice s hhead)

/-- The grant rule tells of no time-out. -/
theorem timeOuts_settle (s : State) (i : SlotId) (a : StationId) : (s.settle i).timeOuts a = s.timeOuts a := by
  cases hr : s.record i with
  | none => rw [s.settle_none i hr]
  | some r =>
    have hnew : (if s.online a = true then
        ((settleRun s r).2.filter fun w => decide (w.station = a)).map (settleRun s r).1.grantedNotice else []).countP
          (fun n => decide (n.kind = .timedOut)) = 0 := by
      rw [List.countP_eq_zero]
      intro n hn
      split at hn
      · obtain ⟨w, -, rfl⟩ := List.mem_map.mp hn
        simp [Record.grantedNotice]
      · exact absurd hn (by simp)
    rw [State.timeOuts, s.notices_settle i r hr a, List.countP_append, hnew]
    rfl

/-- The tick at a slot tells a station of a time-out only for a wait of its that the tick ends there. -/
theorem timeOuts_tickSlot {s : State} {i : SlotId} {a : StationId}
    (h : ∀ r ∈ s.record i, ∀ n, (a, n) ∈ r.waiterNotices → n.kind ≠ .timedOut) :
    (s.tickSlot i).timeOuts a = s.timeOuts a := by
  cases hr : s.record i with
  | none => rw [s.tickSlot_none i hr]
  | some r =>
    have hjudged : (s.tickJudged r).timeOuts a = s.timeOuts a :=
      timeOuts_queueNotices s fun n hn hkind => by
        have hoperational := r.holdingNotices_not_outcome _ _ hn
        rw [hkind] at hoperational
        exact absurd hoperational (by decide)
    have hlowered : (s.tickLowered i r).timeOuts a = (s.tickJudged r).timeOuts a := by
      rw [State.timeOuts, ctx_tickLowered, State.timeOuts]
    have hchanged : (tickChanged s i r).timeOuts a = s.timeOuts a := by
      rw [tickChanged_eq, timeOuts_queueNotices _ (h r hr), hlowered, hjudged]
    rw [s.tickSlot_some i r hr]
    split
    · rw [timeOuts_settle, hchanged]
    · exact hchanged

theorem timeOuts_foldl_tickSlot {l : List SlotId} (hnodup : l.Nodup) (s : State) {a : StationId}
    (h : ∀ i ∈ l, ∀ r ∈ s.record i, ∀ n, (a, n) ∈ r.waiterNotices → n.kind ≠ .timedOut) :
    (l.foldl State.tickSlot s).timeOuts a = s.timeOuts a := by
  induction l generalizing s with
  | nil => rfl
  | cons i is ih =>
    obtain ⟨hi, his⟩ := List.nodup_cons.mp hnodup
    refine (ih his (s.tickSlot i) fun j hj r hr => ?_).trans (timeOuts_tickSlot (h i List.mem_cons_self))
    rw [s.record_tickSlot_ne i j fun e => hi (e ▸ hj)] at hr
    exact h j (List.mem_cons_of_mem _ hj) r hr

section

variable {s : State} (hone : s.OneWaitLaw) {i : SlotId} {r : Record} (hr : s.record i = some r) {w : Waiter}
  (hw : w ∈ r.queue)
include hone hr hw

/-- A station whose only wait ends in another way is told of no time-out by the tick. -/
theorem timeOuts_tick {n : Notice} (hend : r.waiterEnd w = some n) (hn : n.kind ≠ .timedOut) :
    s.tick.timeOuts w.station = s.timeOuts w.station := by
  refine (timeOuts_foldl_tickSlot (List.nodup_finRange 64) (s.setPrescaler 0) fun j _ q hq m hm => ?_).trans rfl
  obtain ⟨v, hv, hm⟩ := List.mem_filterMap.mp hm
  obtain ⟨m', hend', hm⟩ := Option.map_eq_some_iff.mp hm
  obtain ⟨hst, rfl⟩ := Prod.mk.inj hm
  obtain ⟨rfl, rfl⟩ := hone.unique hr hw rfl hq hv hst
  obtain rfl := Option.some.inj (hr.symm.trans hq)
  rw [hend] at hend'
  exact Option.some.inj hend' ▸ hn

end

section

variable {r : Record} (hline : r.line.Nodup) {w : Waiter} (hw : w ∈ r.queue) {h : Holding} (hh : r.holding w.station = some h) (hl : h.lease = some 1) (hm : h.mode = .shared)
  (hend : r.waiterEnd w = some ⟨.withdrawn, r.name, 2⟩)
include hline hw hh hl hm hend

/-- The tick at the record: the WITHDRAWN stands directly behind the REVOKED, where that was admitted (R67, R73). -/
theorem tickChanged_revoked_withdrawn {s : State} (i : SlotId) (ho : s.online w.station = true) : ∃ pre,
    ((tickChanged s i r).ctx w.station).notices = pre ++ [⟨.revoked, r.name, 0⟩, ⟨.withdrawn, r.name, 2⟩]
      ∨ (((tickChanged s i r).ctx w.station).noticeLost = true
        ∧ ((tickChanged s i r).ctx w.station).notices = pre ++ [⟨.withdrawn, r.name, 2⟩]) := by
  have hlowered := ctx_tickLowered s i r w.station
  have hrevoked : (w.station, ⟨.revoked, r.name, 0⟩) ∈ r.holdingNotices (s.leaseClass r.attrs.leaseClass).warn := by
    simpa only [if_pos hm] using mem_holdingNotices_revoked hh hl (s.leaseClass r.attrs.leaseClass).warn
  have honline : (s.tickLowered i r).online w.station = true := by
    rw [State.online, hlowered, State.tickJudged, (s.queueNotices_same _ w.station).life]
    exact ho
  rw [tickChanged_eq, ctx_queueNotices_outcome (mem_waiterNotices hw hend) (r.nodup_waiterNotices hline) rfl honline, hlowered]
  rcases queueNotices_last_or_lost hrevoked (r.nodup_holdingNotices _) ho with ⟨pre, hpre⟩ | hlost
  · refine ⟨pre, .inl ?_⟩
    show ((s.tickJudged r).ctx w.station).notices ++ _ = _
    rw [State.tickJudged, hpre, List.append_assoc]
    rfl
  · exact ⟨_, .inr ⟨hlost, rfl⟩⟩

end

/-- Settles O31. -/
theorem expiryWithdrawsUpgradeWait : Obligations.ExpiryWithdrawsUpgradeWait := by
  intro s a i r w h hreset hrunning hone hr hw hst hrequest hh hm hl ho
  subst hst
  have hexpiring := Record.expiring_of_lease_one hh hl
  have hend : r.waiterEnd w = some ⟨.withdrawn, r.name, 2⟩ := by
    rw [← r.endedNotice_eq, Record.endedNotice, if_pos ⟨hrequest, hexpiring⟩]
  have hout := not_mem_line_ticked hone hr hw hend
  refine ⟨s.tick, exec_leaseTick hreset hrunning, not_waiting_tick hone hr hw hend, fun r' hr' => ?gone, ?told,
    timeOuts_tick hone hr hw hend (by simp)⟩
  case gone =>
    rw [tick_holding hr (.inl ⟨_, hexpiring⟩) hout r' hr', Record.holding_ticked_of_lease_one hh hl]
  case told =>
    obtain ⟨u, hrecord, -, -, honline, hafter⟩ := tick_split s i
    have hur : u.record i = some r := hrecord.trans hr
    obtain ⟨pre, hpre⟩ :=
      tickChanged_revoked_withdrawn (hone.nodup_line hr) hw hh hl hm hend i ((honline w.station).trans ((s.online_iff _).mpr ho))
    obtain ⟨⟨post, hpost⟩, hlost⟩ := (tickSlot_grown_tickChanged hur w.station).trans (hafter w.station)
    refine ⟨pre, post, ?_⟩
    rcases hpre with hboth | ⟨hnotice, hone⟩
    · refine .inl ?_
      rw [hpost, hboth, List.append_assoc]
      rfl
    · refine .inr ⟨hlost hnotice, ?_⟩
      rw [hpost, hone, List.append_assoc]
      rfl

end Sys2Proof.Machine
end

section
/-!
SUPPORT. The turns of the commands about stations, and of the walks (03 section 4). With it, O32 to O35.
-/

namespace Sys2Proof.Machine

/-! ### ATTACH -/

/-- Settles O32. -/
theorem attachBringsOnline : Obligations.AttachBringsOnline := by
  intro s st c hdue
  rw [exec_attach_due hdue]
  refine ⟨fun hoffline => ?_, fun honline => ?_⟩
  · rw [attachCommand, if_pos hoffline]
    rfl
  · rw [attachCommand, if_neg (by rw [honline]; decide)]
    rfl

/-! ### The first turn of a walk -/

/-- The model's end of a station's wait is the end of R58, R98 and R106. -/
theorem waitEnded_endWait (s : State) (st : StationId) : WaitEnded s st (s.endWait st) := by
  unfold State.endWait
  cases hwait : s.waitOf st with
  | none => exact .inl ⟨(s.waitOf_eq_none st).mp hwait, rfl⟩
  | some x =>
    obtain ⟨i, r, w⟩ := x
    obtain ⟨hr, hw, hst⟩ := s.waitOf_spec st i r w hwait
    refine .inr ⟨i, r, hr, ⟨w, hw, hst⟩, ?_⟩
    rw [← dequeue_eq]

/-- A walk's step on slot 0, taken in its first turn, leaves the walk at slot 1 in its carrier's slot (R98, R106). -/
theorem walkStep_start (kind : WalkKind) (target st : StationId) (c : Captured) (s : State) :
    ∃ v removed tainted, WalkStepped kind target 0 s v removed tainted ∧ (kind = .detach → tainted = 0)
      ∧ walkStep st c (Walk.start kind target) s = v.carryWalk st c ⟨kind, target, 1, removed, tainted⟩ := by
  obtain ⟨removed, tainted, hstepped, hcounts, hdetach⟩ := walkEffect_spec (Walk.start kind target) s
  refine ⟨_, removed, tainted, hstepped, hdetach, ?_⟩
  rw [walkStep_of_not_last st c s (by simp [Walk.start]), hcounts]
  simp [Walk.start]

/-- Settles O33. -/
theorem detachFirstTurnInOrder : Obligations.DetachFirstTurnInOrder := by
  intro s st c hdue _
  obtain ⟨v, removed, tainted, hstepped, hdetach, hstart⟩ := walkStep_start .detach st st c
    (((s.setLife st .detaching).endWait st).modifyCtx st fun x => { x with notices := [], cursor := none })
  obtain rfl := hdetach rfl
  refine ⟨_, v, removed, 0, waitEnded_endWait _ st, hstepped, ?_⟩
  rw [exec_detach_due hdue, detachFirstTurn, hstart]
  rfl

theorem purgeTarget_eq_none {c : Captured} (h : c.s3 = 0 ∨ 7 < c.s3.toNat) : c.purgeTarget = none := by
  unfold Captured.purgeTarget
  split
  · rfl
  · next hne => exact stationOf_eq_none _ (h.resolve_left hne)

theorem purgeTarget_eq_some {c : Captured} {target : StationId} (hne : target ≠ 0) (h : c.s3.toNat = target.val) :
    c.purgeTarget = some target := by
  have hs3 : c.s3 ≠ 0 := by
    intro e
    rw [e] at h
    exact hne (Fin.ext h.symm)
  rw [Captured.purgeTarget, if_neg hs3, stationOf_eq_some _ target h]

theorem purgeCommand_no_target (st : StationId) {c : Captured} (s : State) (h : c.purgeTarget = none) :
    purgeCommand st c s = s.complete st (.bare .badOperand) := by
  rw [purgeCommand, h]

theorem purgeCommand_target (st : StationId) {c : Captured} (s : State) {target : StationId}
    (h : c.purgeTarget = some target) : purgeCommand st c s =
      if s.online target then purgeFirstTurn st target c s else s.complete st (.bare .badState) := by
  rw [purgeCommand, h]

/-- Settles O34. -/
theorem purgeChecksAndFirstTurn : Obligations.PurgeChecksAndFirstTurn := by
  intro s c hdue
  rw [exec_purge_due hdue]
  refine ⟨fun hoperand => ?operand, fun target hne htarget hlife => ?state, fun target hne htarget hlife _ => ?turn⟩
  case operand =>
    rw [purgeCommand_no_target 0 s (purgeTarget_eq_none hoperand)]
    rfl
  case state =>
    have hoff : ¬ s.online target = true := mt (s.online_iff target).mp hlife
    rw [purgeCommand_target 0 s (purgeTarget_eq_some hne htarget), if_neg hoff]
    rfl
  case turn =>
    obtain ⟨v, removed, tainted, hstepped, -, hstart⟩ := walkStep_start .purge target 0 c
      (((s.modifyCtx target Station.purged).endWait target).setLife target .purging)
    refine ⟨_, v, removed, tainted, waitEnded_endWait _ target, hstepped, ?_⟩
    rw [purgeCommand_target 0 s (purgeTarget_eq_some hne htarget), if_pos ((s.online_iff target).mpr hlife),
      purgeFirstTurn, hstart]
    rfl

/-! ### A later turn of a walk -/

theorem laterTurn_of_walk {s : State} {st : StationId} {c : Captured} {w : Walk} (harbiter : s.arbiter = some st)
    (hslot : (s.ctx st).slot = .executing c w) : laterTurn w.kind st s = (walkStep st c w s).endTurn st := by
  rw [laterTurn, (s.walkTurn_eq_some st c w).mpr ⟨harbiter, hslot⟩]
  exact if_pos rfl

theorem exec_walk {s : State} {st : StationId} {c : Captured} {w : Walk} (hreset : s.resetPin = false)
    (harbiter : s.arbiter = some st) (hslot : (s.ctx st).slot = .executing c w) :
    exec (match w.kind with | .detach => .detachWalkStep st | .purge => .purgeWalkStep st) s =
      .next ((walkStep st c w s).endTurn st) := by
  rw [← laterTurn_of_walk harbiter hslot]
  cases w.kind with
  | detach => exact unlessReset_low s _ hreset
  | purge => exact unlessReset_low s _ hreset

/-- Settles O35. -/
theorem walkStepTakesSlot : Obligations.WalkStepTakesSlot := by
  intro s st c w hreset harbiter hslot
  have hexec := exec_walk hreset harbiter hslot
  obtain ⟨removed, tainted, hstepped, hcounts, -⟩ := walkEffect_spec w s
  refine ⟨_, removed, tainted, hstepped, fun hlast hkind => ?detach, fun hlast hkind => ?purge, fun hnext => ?next⟩
  case detach =>
    rw [hkind, walkStep_of_last st c s hlast, hcounts, Walk.result, hkind] at hexec
    exact hexec
  case purge =>
    rw [hkind, walkStep_of_last st c s hlast, hcounts, Walk.result, hkind] at hexec
    exact hexec
  case next =>
    rw [walkStep_of_not_last st c s hnext, hcounts] at hexec
    exact hexec

end Sys2Proof.Machine
end

section
/-!
SUPPORT. CONFIGURE, and the commands about standing records (chapter 9). With it, O36 to O41.
-/

namespace Sys2Proof.Machine

/-! ### CONFIGURE of a class -/

theorem classEntry_eq_none {c : Captured} (hle : c.s2.toNat ≤ c.s3.toNat) (hne : ¬ (c.s2 = 0 ∧ c.s3 = 0)) :
    c.classEntry = none := by
  refine if_neg ?_
  rintro (hlt | hzero)
  · omega
  · exact hne hzero

theorem configureClassCommand_noSelector (st : StationId) {c : Captured} (s : State) (h : c.selector = none) :
    configureClassCommand st c s = (s, .bare .badOperand) := by
  rw [configureClassCommand, h]

theorem configureClassCommand_noEntry (st : StationId) {c : Captured} (s : State) (h : c.classEntry = none) :
    configureClassCommand st c s = (s, .bare .badOperand) := by
  unfold configureClassCommand
  split
  · next he => exact absurd (h.symm.trans he) (by simp)
  · rfl

theorem configureClassCommand_entry (st : StationId) {c : Captured} (s : State) {k : ClassId} {e : LeaseClass}
    (hk : c.selector = some (.leaseClass k)) (he : c.classEntry = some e) :
    configureClassCommand st c s = (allSlots.foldl (State.refitSlot k e.length) (s.setClass k e),
      ⟨.done, (s.leaseClass k).length, (s.leaseClass k).warn, 0, 0⟩) := by
  rw [configureClassCommand, hk, he]

/-- A class set changes nothing but the records, slot by slot (R85, R162). -/
theorem refitSlots_eq (k : ClassId) (length : Byte) (s : State) :
    allSlots.foldl (State.refitSlot k length) s =
      { s with slots := s.slots.map fun o => o.map fun r =>
          if r.attrs.leaseClass = k then { r with holders := r.holders.map fun o => o.map (refitted length) } else r } := by
  have hframe : allSlots.foldl (State.refitSlot k length) s =
      { s with slots := (allSlots.foldl (State.refitSlot k length) s).slots } := by
    refine foldl_holds (State.refitSlot k length) (fun u => u = { s with slots := u.slots }) (fun u i hu => ?_) allSlots s rfl
    unfold State.refitSlot
    split
    · exact hu
    · split
      · exact congrArg (fun v : State => v.setRecord i _) hu
      · exact hu
  have hslots : (allSlots.foldl (State.refitSlot k length) s).slots = s.slots.map fun o => o.map fun r =>
      if r.attrs.leaseClass = k then { r with holders := r.holders.map fun o => o.map (refitted length) } else r := by
    refine Vector.ext fun j hj => ?_
    have hrecord := record_refitSlots k length s ⟨j, hj⟩
    simp only [Record.refit_eq] at hrecord
    rw [Vector.getElem_map]
    exact hrecord
  rw [hframe, hslots]

/-- Settles O36. -/
theorem configureClassStoresAndRefits : Obligations.ConfigureClassStoresAndRefits := by
  intro s st c hdue
  refine ⟨fun hselector => ?none, fun k hk => ?entry⟩
  case none =>
    have hnone := c.selector_none hselector
    rw [exec_configureClass_due hdue (by rw [selectsClass, hnone]), configureClassCommand_noSelector st s hnone]
    rfl
  case entry =>
    have hclass := c.selector_class k hk
    rw [exec_configureClass_due hdue (by rw [selectsClass, hclass])]
    refine ⟨fun hle hne => ?_, fun hentry => ?_⟩
    · rw [configureClassCommand_noEntry st s (classEntry_eq_none hle hne)]
      rfl
    · rw [configureClassCommand_entry st s hclass (if_pos hentry), refitSlots_eq]
      rfl

/-! ### The other selectors of CONFIGURE -/

theorem configureTickRunCommand_setting (st : StationId) {c : Captured} (s : State) {run : Bool}
    (h : c.runSetting = some run) :
    configureTickRunCommand st c s = (s.setRunning run, ⟨.done, flagByte s.lease.running, 0, 0, 0⟩) := by
  rw [configureTickRunCommand, h]

theorem configureTickRunCommand_badOperand (st : StationId) {c : Captured} (s : State) (h : c.runSetting = none) :
    configureTickRunCommand st c s = (s, .bare .badOperand) := by
  rw [configureTickRunCommand, h]

theorem runSetting_start {c : Captured} (h : c.s2 = 1) : c.runSetting = some true := by
  rw [Captured.runSetting, h]
  rfl

theorem runSetting_stop {c : Captured} (h : c.s2 = 0) : c.runSetting = some false := if_pos h

theorem runSetting_eq_none {c : Captured} (h : 1 < c.s2.toNat) : c.runSetting = none := by
  have hne (v : Byte) (hv : v.toNat ≤ 1) : c.s2 ≠ v := by
    rintro rfl
    omega
  rw [Captured.runSetting, if_neg (hne 0 (by decide)), if_neg (hne 1 (by decide))]

/-- A start while STOPPED sets the count to 0 (R72). -/
theorem setRunning_start {s : State} (h : s.lease.running = false) :
    s.setRunning true = { s with lease := { s.lease with running := true, count := 0 } } := by
  rw [State.setRunning, h]
  rfl

/-- A start while RUNNING changes nothing (R72). -/
theorem setRunning_running {s : State} (h : s.lease.running = true) : s.setRunning true = s := by
  have hstays : s.setRunning true = { s with lease := { s.lease with running := true } } := by
    rw [State.setRunning, h]
    rfl
  rw [hstays, ← h]

theorem setRunning_stop (s : State) : s.setRunning false = { s with lease := { s.lease with running := false } } := rfl

theorem optionByte_eq (a : Attributes) :
    a.optionByte = BitVec.ofNat 8 (a.leaseClass.val + if a.sharedAllowed = true then 4 else 0) := by
  have hcases : ∀ (k : ClassId) (shared : Bool),
      (⟨k, shared, 0⟩ : Attributes).optionByte = BitVec.ofNat 8 (k.val + if shared = true then 4 else 0) := by decide
  exact hcases a.leaseClass a.sharedAllowed

theorem configureDefaultsCommand_attributes (st : StationId) {c : Captured} (s : State) {a : Attributes}
    (h : c.attributes = some a) :
    configureDefaultsCommand st c s = ({ s with defaults := a }, ⟨.done, s.defaults.optionByte, s.defaults.permit, 0, 0⟩) := by
  rw [configureDefaultsCommand, h]

theorem configureDefaultsCommand_badOperand (st : StationId) {c : Captured} (s : State) (h : c.attributes = none) :
    configureDefaultsCommand st c s = (s, .bare .badOperand) := by
  rw [configureDefaultsCommand, h]

theorem attributes_eq_none {c : Captured} (h : 8 ≤ c.s2.toNat) : c.attributes = none := optionsOf_eq_none c.s2 c.s3 h

theorem attributes_eq_some {c : Captured} {k : ClassId} {shared : Bool}
    (h : c.s2.toNat = k.val + (if shared = true then 4 else 0)) : c.attributes = some ⟨k, shared, c.s3⟩ :=
  optionsOf_eq_some c.s2 c.s3 k shared h

/-- Settles O37. -/
theorem configureTimingAndDefaults : Obligations.ConfigureTimingAndDefaults := by
  intro s st c hdue
  have hprescaler (h : c.s0 = 4) := exec_configurePrescaler_due hdue (by rw [selectsPrescaler, c.selector_prescaler h]; rfl)
  have hrun (h : c.s0 = 5) := exec_configureTickRun_due hdue (by rw [selectsTickRun, c.selector_tickRun h]; rfl)
  have hdefaults (h : c.s0 = 6) := exec_configureDefaults_due hdue (by rw [selectsDefaults, c.selector_defaults h]; rfl)
  refine ⟨hprescaler, fun h5 hstart hstopped => ?start, fun h5 hstart hrunning => ?restart, fun h5 hstop => ?stop,
    fun h5 hoperand => ?badRun, fun h6 hoperand => ?badDefaults, fun k shared h6 hoptions => ?defaults⟩
  case start =>
    rw [hrun h5, configureTickRunCommand_setting st s (runSetting_start hstart), setRunning_start hstopped, hstopped]
    rfl
  case restart =>
    rw [hrun h5, configureTickRunCommand_setting st s (runSetting_start hstart), setRunning_running hrunning, hrunning]
    rfl
  case stop =>
    rw [hrun h5, configureTickRunCommand_setting st s (runSetting_stop hstop), setRunning_stop]
    rfl
  case badRun =>
    rw [hrun h5, configureTickRunCommand_badOperand st s (runSetting_eq_none hoperand)]
    rfl
  case badDefaults =>
    rw [hdefaults h6, configureDefaultsCommand_badOperand st s (attributes_eq_none hoperand)]
    rfl
  case defaults =>
    rw [hdefaults h6, configureDefaultsCommand_attributes st s (attributes_eq_some hoptions), optionByte_eq]

/-! ### The checks of DEFINE and AMEND -/

section Standing

variable {s : State} {st : StationId} {c : Captured} {a : Attributes} {i : SlotId} {r : Record}

theorem attributes_of_lt (h : c.s2.toNat < 8) : ∃ k, c.attributes = some ⟨k, c.s2.getLsbD 2, c.s3⟩ := by
  obtain ⟨k, hk, -⟩ := optionsOf_of_lt c.s2 c.s3 h
  exact ⟨k, hk⟩

theorem defineCommand_badOperand (h : 8 ≤ c.s2.toNat) : defineCommand st c s = (s, .bare .badOperand) := by
  rw [defineCommand, attributes_eq_none h]

theorem amendCommand_badOperand (h : 8 ≤ c.s2.toNat) : amendCommand st c s = (s, .bare .badOperand) := by
  rw [amendCommand, attributes_eq_none h]

section Attributes

variable (ha : c.attributes = some a)
include ha

theorem defineCommand_badName (hz : c.name = 0) : defineCommand st c s = (s, .bare .badName) := by
  simp [defineCommand, ha, hz]

theorem defineCommand_absent (hz : c.name ≠ 0) (habsent : s.Absent c.name) :
    defineCommand st c s = defineAbsent c.name a s := by
  rw [defineCommand, ha]
  dsimp only
  rw [if_neg hz, (s.lookup_eq_none c.name).mpr (.inr habsent)]

theorem amendCommand_badName (hz : c.name = 0) : amendCommand st c s = (s, .bare .badName) := by
  simp [amendCommand, ha, hz]

theorem amendCommand_noRecord (hz : c.name ≠ 0) (habsent : s.Absent c.name) :
    amendCommand st c s = (s, .bare .noRecord) := by
  rw [amendCommand, ha]
  dsimp only
  rw [if_neg hz, (s.lookup_eq_none c.name).mpr (.inr habsent)]

variable (hN : s.NamesLaw) (hn : s.Named c.name i r)
include hN hn

theorem defineCommand_named : defineCommand st c s =
    if r.kind = .standing then (s, .bare .badState)
    else if 48 ≤ s.standingCount then (s, .bare .standingFull)
    else if r.sharingGuard a then (s, .bare .inUse)
    else ((s.setStandingCount (s.standingCount + 1)).storeAmended i (s.adopted r a), amendedResult i true r a) := by
  rw [defineCommand, ha]
  dsimp only
  rw [if_neg (hn.ne_zero hN), (s.lookup_eq_some hN c.name i r).mpr hn]
  rfl

theorem amendCommand_named : amendCommand st c s =
    if r.kind = .transient then (s, .bare .badState)
    else if r.sharingGuard a then (s, .bare .inUse)
    else (s.storeAmended i (s.amended r a), amendedResult i false r a) := by
  rw [amendCommand, ha]
  dsimp only
  rw [if_neg (hn.ne_zero hN), (s.lookup_eq_some hN c.name i r).mpr hn]

end Attributes

theorem defineAbsent_standingFull (n : LockName) (h : 48 ≤ s.standingCount) :
    defineAbsent n a s = (s, .bare .standingFull) := if_pos h

theorem defineAbsent_tableFull (n : LockName) (h : ¬ 48 ≤ s.standingCount) (hf : s.TableFull) :
    defineAbsent n a s = (s, .bare .tableFull) := by
  unfold defineAbsent Config.standingLimit
  rw [if_neg h, s.freeSlot_eq_none.mpr hf]

theorem defineAbsent_created (n : LockName) (h : ¬ 48 ≤ s.standingCount) (hi : s.LowestFree i) :
    defineAbsent n a s = ((s.setRecord i (some (newStanding n a))).setStandingCount (s.standingCount + 1),
        ⟨.done, byteOf i.val, 0, 0, 0⟩) := by
  unfold defineAbsent Config.standingLimit
  rw [if_neg h, (s.freeSlot_eq_some i).mpr hi]

/-- R165's table. -/
theorem defineCommand_checks (hN : s.NamesLaw) : FirstApplies
    [(8 ≤ c.s2.toNat, .badOperand),
     (c.name = 0, .badName),
     (∃ i r, s.Named c.name i r ∧ r.kind = .standing, .badState),
     (¬ s.Absent c.name ∧ 48 ≤ s.standingCount, .standingFull),
     (∃ i r, s.Named c.name i r ∧ c.s2.getLsbD 2 = false ∧ r.SharedUse, .inUse),
     (¬ s.Absent c.name, .done),
     (48 ≤ s.standingCount, .standingFull),
     (s.TableFull, .tableFull),
     (True, .done)]
    (defineCommand st c s).2.code := by
  by_cases hoperand : 8 ≤ c.s2.toNat
  · rw [defineCommand_badOperand hoperand]
    exact .here hoperand
  refine .skip hoperand ?_
  obtain ⟨k, ha⟩ := attributes_of_lt (not_le.mp hoperand)
  by_cases hz : c.name = 0
  · rw [defineCommand_badName ha hz]
    exact .here hz
  refine .skip hz ?_
  by_cases habsent : s.Absent c.name
  · rw [defineCommand_absent ha hz habsent]
    refine .skip (habsent.not_named _) (.skip (fun h => h.1 habsent) (.skip (habsent.not_named _)
      (.skip (fun h => h habsent) ?_)))
    by_cases hlimit : 48 ≤ s.standingCount
    · rw [defineAbsent_standingFull _ hlimit]
      exact .here hlimit
    refine .skip hlimit ?_
    by_cases hfull : s.TableFull
    · rw [defineAbsent_tableFull _ hlimit hfull]
      exact .here hfull
    obtain ⟨i, hi⟩ := Option.ne_none_iff_exists'.mp (mt s.freeSlot_eq_none.mp hfull)
    rw [defineAbsent_created _ hlimit ((s.freeSlot_eq_some i).mp hi)]
    exact .skip hfull (.here trivial)
  · obtain ⟨i, r, hn⟩ := State.exists_named_of_not_absent habsent
    have hstanding := State.exists_named_iff hN hn fun _ q => q.kind = .standing
    have hguard := State.exists_named_iff hN hn fun _ q => c.s2.getLsbD 2 = false ∧ q.SharedUse
    rw [defineCommand_named ha hN hn]
    by_cases hk : r.kind = .standing
    · rw [if_pos hk]
      exact .here (hstanding.mpr hk)
    rw [if_neg hk]
    refine .skip (mt hstanding.mp hk) ?_
    by_cases hlimit : 48 ≤ s.standingCount
    · rw [if_pos hlimit]
      exact .here ⟨habsent, hlimit⟩
    rw [if_neg hlimit]
    refine .skip (fun h => hlimit h.2) ?_
    by_cases huse : r.sharingGuard ⟨k, c.s2.getLsbD 2, c.s3⟩ = true
    · rw [if_pos huse]
      exact .here (hguard.mpr ((r.sharingGuard_iff _).mp huse))
    · rw [if_neg huse]
      exact .skip (fun h => huse ((r.sharingGuard_iff _).mpr (hguard.mp h))) (.here habsent)

/-- R169's table. -/
theorem amendCommand_checks (hN : s.NamesLaw) : FirstApplies
    [(8 ≤ c.s2.toNat, .badOperand),
     (c.name = 0, .badName),
     (s.Absent c.name, .noRecord),
     (∃ i r, s.Named c.name i r ∧ r.kind = .transient, .badState),
     (∃ i r, s.Named c.name i r ∧ c.s2.getLsbD 2 = false ∧ r.SharedUse, .inUse),
     (True, .done)]
    (amendCommand st c s).2.code := by
  by_cases hoperand : 8 ≤ c.s2.toNat
  · rw [amendCommand_badOperand hoperand]
    exact .here hoperand
  refine .skip hoperand ?_
  obtain ⟨k, ha⟩ := attributes_of_lt (not_le.mp hoperand)
  by_cases hz : c.name = 0
  · rw [amendCommand_badName ha hz]
    exact .here hz
  refine .skip hz ?_
  by_cases habsent : s.Absent c.name
  · rw [amendCommand_noRecord ha hz habsent]
    exact .here habsent
  refine .skip habsent ?_
  obtain ⟨i, r, hn⟩ := State.exists_named_of_not_absent habsent
  have htransient := State.exists_named_iff hN hn fun _ q => q.kind = .transient
  have hguard := State.exists_named_iff hN hn fun _ q => c.s2.getLsbD 2 = false ∧ q.SharedUse
  rw [amendCommand_named ha hN hn]
  by_cases hk : r.kind = .transient
  · rw [if_pos hk]
    exact .here (htransient.mpr hk)
  rw [if_neg hk]
  refine .skip (mt htransient.mp hk) ?_
  by_cases huse : r.sharingGuard ⟨k, c.s2.getLsbD 2, c.s3⟩ = true
  · rw [if_pos huse]
    exact .here (hguard.mpr ((r.sharingGuard_iff _).mp huse))
  · rw [if_neg huse]
    exact .skip (fun h => huse ((r.sharingGuard_iff _).mpr (hguard.mp h))) (.here trivial)

/-! ### New attributes -/

theorem Record.leftOut_eq (r : Record) (a : Attributes) :
    r.leftOut a = r.queue.filter fun w => decide (w.OutsideMask a.permit) := by
  refine List.filter_congr fun w _ => ?_
  rw [Bool.eq_iff_iff, w.leftOut_iff a, decide_eq_true_iff]

theorem Record.withdrawOutside_eq (r : Record) (a : Attributes) :
    r.withdrawOutside a = { r with queue := r.queue.filter fun w => decide (¬ w.OutsideMask a.permit) } := by
  have hqueue : (r.queue.filter fun w => !w.leftOut a) = r.queue.filter fun w => decide (¬ w.OutsideMask a.permit) := by
    refine List.filter_congr fun w _ => ?_
    rw [Bool.eq_iff_iff, Bool.not_eq_true', decide_eq_true_iff, ← w.leftOut_iff a, Bool.not_eq_true]
  rw [Record.withdrawOutside, hqueue]

/-- The waiters left out are told so in turn, with cause PERMIT and their request (R68, R181). -/
theorem queueNotices_permit (s : State) (r : Record) (a : Attributes) :
    s.queueNotices ((r.leftOut a).map r.permitNotice) =
      (r.queue.filter fun w => decide (w.OutsideMask a.permit)).foldl
        (fun u w => u.queueNotice w.station ⟨.withdrawn, r.name, if w.request = .shared then 4 else 5⟩) s := by
  rw [State.queueNotices, List.foldl_map, r.leftOut_eq a]
  refine List.foldl_ext _ _ s fun u w hw => ?_
  obtain ⟨hclaim, -⟩ := of_decide_eq_true (List.mem_filter.mp hw).2
  rw [r.permitNotice_eq w hclaim]

/-- A record stored with new attributes, in the words of R167 and R169. -/
theorem storeAmended_eq (s : State) (i : SlotId) (q : Record) :
    s.storeAmended i q =
      State.settle
        ((q.queue.filter fun w => decide (w.OutsideMask q.attrs.permit)).foldl
          (fun u w => u.queueNotice w.station ⟨.withdrawn, q.name, if w.request = .shared then 4 else 5⟩)
          (s.setRecord i (some { q with queue := q.queue.filter fun w => decide (¬ w.OutsideMask q.attrs.permit) })))
        i := by
  rw [State.storeAmended, queueNotices_permit, Record.withdrawOutside_eq]

theorem amendedResult_eq (i : SlotId) (adoption : Bool) (r : Record) (a : Attributes) :
    amendedResult i adoption r a = ⟨.done, BitVec.ofNat 8 i.val, if adoption = true then 1 else 0,
      BitVec.ofNat 8 (r.queue.filter fun w => decide (w.OutsideMask a.permit)).length, 0⟩ := by
  rw [amendedResult, r.leftOut_eq a]
  rfl

theorem State.adopted_eq (s : State) (r : Record) (a : Attributes) :
    s.adopted r a = { r with
      kind := .standing
      attrs := a
      holders := r.holders.map fun o => o.map (refitted (s.leaseClass a.leaseClass).length) } := by
  rw [State.adopted, Record.refit_eq]

theorem State.amended_eq (s : State) (r : Record) (a : Attributes) :
    s.amended r a = { r with
      attrs := a
      holders := if r.attrs.leaseClass = a.leaseClass then r.holders
        else r.holders.map fun o => o.map (refitted (s.leaseClass a.leaseClass).length) } := by
  rw [State.amended]
  split
  · rfl
  · rw [Record.refit_eq]

/-- The sharing guard does not hold a command up that allows sharing, or that finds none (R168). -/
theorem sharingGuard_ne_true {k : ClassId} {shared : Bool} {permit : Byte} (h : shared = true ∨ ¬ r.SharedUse) :
    ¬ r.sharingGuard ⟨k, shared, permit⟩ = true := by
  rw [r.sharingGuard_iff]
  rintro ⟨hforbidden, huse⟩
  rcases h with hshared | hnone
  · exact absurd (hforbidden.symm.trans hshared) (by decide)
  · exact hnone huse

end Standing

/-- Settles O38. -/
theorem defineChecksInOrder : Obligations.DefineChecksInOrder := fun _ _ _ hdue hN =>
  posted_code (exec_define_due hdue) (defineCommand_checks hN)

/-- Settles O39. -/
theorem defineCreatesOrAdopts : Obligations.DefineCreatesOrAdopts := by
  intro s st c k shared hdue hN hoptions hz hroom
  have ha := attributes_eq_some hoptions
  have hlimit : ¬ 48 ≤ s.standingCount := not_le.mpr hroom
  rw [exec_define_due hdue]
  refine ⟨fun i habsent hi => ?created, fun i r hn hk huse => ?adopted⟩
  case created =>
    rw [defineCommand_absent ha hz habsent, defineAbsent_created _ hlimit hi]
    rfl
  case adopted =>
    have hstanding : ¬ r.kind = .standing := by rw [hk]; decide
    rw [defineCommand_named ha hN hn, if_neg hstanding, if_neg hlimit, if_neg (sharingGuard_ne_true huse),
      State.adopted_eq, storeAmended_eq, amendedResult_eq]
    rfl

/-- Settles O40. -/
theorem amendChangesAttributes : Obligations.AmendChangesAttributes := by
  intro s st c hdue hN
  refine ⟨posted_code (exec_amend_due hdue) (amendCommand_checks hN), fun k shared i r hoptions hn hk huse => ?_⟩
  have htransient : ¬ r.kind = .transient := by rw [hk]; decide
  rw [exec_amend_due hdue, amendCommand_named (attributes_eq_some hoptions) hN hn, if_neg htransient,
    if_neg (sharingGuard_ne_true huse), State.amended_eq, storeAmended_eq, amendedResult_eq]
  rfl

/-! ### RETIRE -/

section Retire

variable {s : State} {st : StationId} {c : Captured} {i : SlotId} {r : Record}

theorem retireCommand_badName (hz : c.name = 0) : retireCommand st c s = (s, .bare .badName) := if_pos hz

theorem retireCommand_noRecord (hz : c.name ≠ 0) (habsent : s.Absent c.name) :
    retireCommand st c s = (s, .bare .noRecord) := by
  rw [retireCommand, if_neg hz, (s.lookup_eq_none c.name).mpr (.inr habsent)]

theorem retireCommand_named (hN : s.NamesLaw) (hn : s.Named c.name i r) : retireCommand st c s =
    if r.idle = false ∨ r.queue ≠ [] then (s, .bare .inUse)
    else (s.removeRecord i r,
      ⟨.done, byteOf i.val, flagByte r.taint.isSome, revokedByte r.taint, r.kind.code.setWidth 8⟩) := by
  rw [retireCommand, if_neg (hn.ne_zero hN), (s.lookup_eq_some hN c.name i r).mpr hn]

theorem Record.idle_eq_false (r : Record) : r.idle = false ↔ ¬ r.NoHolder := by
  rw [← r.idle_iff, Bool.not_eq_true]

/-- R171's table. -/
theorem retireCommand_checks (hN : s.NamesLaw) : FirstApplies
    [(c.name = 0, .badName),
     (s.Absent c.name, .noRecord),
     (∃ i r, s.Named c.name i r ∧ (¬ r.NoHolder ∨ r.queue ≠ []), .inUse),
     (True, .done)]
    (retireCommand st c s).2.code := by
  by_cases hz : c.name = 0
  · rw [retireCommand_badName hz]
    exact .here hz
  refine .skip hz ?_
  by_cases habsent : s.Absent c.name
  · rw [retireCommand_noRecord hz habsent]
    exact .here habsent
  refine .skip habsent ?_
  obtain ⟨i, r, hn⟩ := State.exists_named_of_not_absent habsent
  have hused := State.exists_named_iff hN hn fun _ q => ¬ q.NoHolder ∨ q.queue ≠ []
  rw [← r.idle_eq_false] at hused
  rw [retireCommand_named hN hn]
  by_cases huse : r.idle = false ∨ r.queue ≠ []
  · rw [if_pos huse]
    exact .here (hused.mpr huse)
  · rw [if_neg huse]
    exact .skip (mt hused.mp huse) (.here trivial)

theorem Kind.code_byte (k : Kind) : k.code.setWidth 8 = if k = .standing then (1 : Byte) else 0 := by
  cases k <;> rfl

end Retire

/-- Settles O41. -/
theorem retireRemovesIdleRecord : Obligations.RetireRemovesIdleRecord := by
  intro s st c hdue hN
  refine ⟨posted_code (exec_retire_due hdue) (retireCommand_checks hN), fun i r hn hidle hqueue => ?_⟩
  have hunused : ¬ (r.idle = false ∨ r.queue ≠ []) := by simp [r.idle_eq_false, hidle, hqueue]
  rw [exec_retire_due hdue, retireCommand_named hN hn, if_neg hunused, flagByte_taint, Kind.code_byte]
  rfl

end Sys2Proof.Machine
end

section
/-!
SUPPORT. INSPECT, the listing commands and STATION INFO (chapter 8). With it, O42 to O44.
-/

namespace Sys2Proof.Machine

/-! ### The bytes of a view -/

/-- The fields of D0 of the summary view as one number (R149, R180). -/
theorem summaryByte_eq (kind : Kind) (taint : Option StationId) (mode : DerivedMode) (a : Attributes) :
    summaryByte kind taint mode a = BitVec.ofNat 8
      (a.leaseClass.val + (if a.sharedAllowed = true then 4 else 0)
        + (match mode with
          | .idle => 0
          | .shared => 8
          | .exclusive => 16)
        + (if taint = none then 0 else 32) + (if kind = .standing then 64 else 0)) := by
  have hflag : (if taint = none then 0 else 32) = if taint.isSome = true then 32 else 0 := by cases taint <;> rfl
  rw [hflag, summaryByte]
  generalize taint.isSome = tainted
  generalize a.leaseClass = k
  generalize a.sharedAllowed = shared
  revert tainted k shared
  cases kind <;> cases mode <;> decide

/-- Bit n of a set of stations is 1 when station n is a member (R180). -/
theorem getLsbD_stationSet (member : StationId → Bool) (a : StationId) :
    (stationSet member).getLsbD a.val = member a := by
  have hbits : ∀ b7 b6 b5 b4 b3 b2 b1 b0 : Bool, ∀ n : Fin 8,
      BitVec.getLsbD (w := 8) (BitVec.ofBool b7 ++ BitVec.ofBool b6 ++ BitVec.ofBool b5 ++ BitVec.ofBool b4
        ++ BitVec.ofBool b3 ++ BitVec.ofBool b2 ++ BitVec.ofBool b1 ++ BitVec.ofBool b0) n.val =
      #v[b0, b1, b2, b3, b4, b5, b6, b7][n] := by decide +kernel
  have hmember : #v[member 0, member 1, member 2, member 3, member 4, member 5, member 6, member 7][a] = member a := by
    fin_cases a <;> rfl
  exact (hbits _ _ _ _ _ _ _ _ a).trans hmember

/-- The fields of D2 of the summary view as one number (R149, R180). -/
theorem waitersByte_eq (upgradeWaiter : Bool) (count : Nat) :
    waitersByte upgradeWaiter count = BitVec.ofNat 8 (count % 16 + if upgradeWaiter = true then 16 else 0) := by
  have hlow : BitVec.ofNat 4 count = BitVec.ofNat 4 (count % 16) := by
    apply BitVec.eq_of_toNat_eq
    simp
  have hcases : ∀ (n : Fin 16) (b : Bool),
      (0 : BitVec 3) ++ BitVec.ofBool b ++ BitVec.ofNat 4 n.val = BitVec.ofNat 8 (n.val + if b = true then 16 else 0) := by
    decide
  rw [waitersByte, hlow]
  exact hcases ⟨count % 16, Nat.mod_lt _ (by decide)⟩ upgradeWaiter

theorem Record.upgradeWaiterAtHead_iff (r : Record) :
    r.upgradeWaiterAtHead = true ↔ ∃ w ∈ r.queue.head?, w.request = .upgrade := by
  simp [Record.upgradeWaiterAtHead, Option.any_eq_true]

/-- The fields of D3 of the own-holding view as one number (R151, R180). -/
theorem holdingByte_eq (m : Mode) (taint : Option StationId) :
    holdingByte m taint = BitVec.ofNat 8 ((if m = .shared then 0 else 1)
      + (match taint with | none => 0 | some a => 2 + 4 * a.val)) := by
  cases taint with
  | none => cases m <;> rfl
  | some a =>
    revert a
    cases m <;> decide

theorem Mode.byte_eq (m : Mode) : m.byte = if m = .shared then (0 : Byte) else 1 := by
  cases m <;> rfl

/-! ### INSPECT -/

/-- The derived mode agrees with the holders (R5). -/
theorem Record.derivedMode_iff (r : Record) : (r.derivedMode = .idle ↔ r.NoHolder)
    ∧ (r.derivedMode = .exclusive ↔ ¬ r.NoExclusiveHolder)
    ∧ (r.derivedMode = .shared ↔ ¬ r.NoHolder ∧ r.NoExclusiveHolder) := by
  have hnone (h : r.NoHolder) : r.NoExclusiveHolder := fun a g hg => by
    rw [h a] at hg
    exact absurd hg (by simp)
  unfold Record.derivedMode
  by_cases hidle : r.NoHolder
  · rw [if_pos (r.idle_iff.mpr hidle)]
    simp [hidle, hnone hidle]
  · rw [if_neg (mt r.idle_iff.mp hidle)]
    by_cases hshared : r.NoExclusiveHolder
    · rw [if_neg (by rw [r.exclusivelyHeld_eq_false.mpr hshared]; decide)]
      simp [hidle, hshared]
    · rw [if_pos (Bool.eq_true_of_not_eq_false (mt r.exclusivelyHeld_eq_false.mp hshared))]
      simp [hidle, hshared]

section Inspect

variable {s : State} {st : StationId} {c : Captured} {i : SlotId} {r : Record} {v : View}

theorem view_eq_none (h : 9 < c.s3.toNat) : c.view = none := by
  have hne : c.s3 ≠ 0 := by
    intro e
    rw [e] at h
    exact absurd h (by decide)
  rw [Captured.view, if_neg hne, if_neg (by omega), if_neg (by omega)]

theorem view_summary (h : c.s3 = 0) : c.view = some .summary := if_pos h

theorem view_waiter (hpos : 1 ≤ c.s3.toNat) (hle : c.s3.toNat ≤ 8) : c.view = some (.waiter c.s3.toNat) := by
  have hne : c.s3 ≠ 0 := by
    intro e
    rw [e] at hpos
    exact absurd hpos (by decide)
  rw [Captured.view, if_neg hne, if_pos hle]

theorem view_own (h : c.s3 = 9) : c.view = some .own := by
  rw [Captured.view, h]
  rfl

theorem inspectCommand_badOperand (h : c.view = none) : inspectCommand st c s = (s, .bare .badOperand) := by
  rw [inspectCommand, h]

theorem inspectCommand_badName (hv : c.view = some v) (hz : c.name = 0) : inspectCommand st c s = (s, .bare .badName) := by
  rw [inspectCommand, hv]
  exact if_pos hz

theorem inspectCommand_noRecord (hv : c.view = some v) (hz : c.name ≠ 0) (habsent : s.Absent c.name) :
    inspectCommand st c s = (s, .bare .noRecord) := by
  rw [inspectCommand, hv]
  dsimp only
  rw [if_neg hz, (s.lookup_eq_none c.name).mpr (.inr habsent)]

theorem inspectCommand_view (hv : c.view = some v) (hN : s.NamesLaw) (hn : s.Named c.name i r) :
    inspectCommand st c s = (s, r.view st v) := by
  rw [inspectCommand, hv]
  dsimp only
  rw [if_neg (hn.ne_zero hN), (s.lookup_eq_some hN c.name i r).mpr hn]

theorem view_own_none (h : r.holding st = none) : r.view st .own = .bare .notHolder := by
  rw [Record.view, h]

theorem view_own_some {h : Holding} (hh : r.holding st = some h) : r.view st .own = h.view r.taint := by
  rw [Record.view, hh]

theorem view_waiter_none {p : Nat} (h : r.queue[p - 1]? = none) : r.view st (.waiter p) = .bare .endOfList := by
  rw [Record.view, h]

theorem view_waiter_some {p : Nat} {w : Waiter} (h : r.queue[p - 1]? = some w) : r.view st (.waiter p) = w.view := by
  rw [Record.view, h]

/-- A view number below 10 names a view. -/
theorem exists_view (h : ¬ 9 < c.s3.toNat) : ∃ v, c.view = some v
    ∧ (v = .summary ∧ c.s3 = 0 ∨ v = .waiter c.s3.toNat ∧ 1 ≤ c.s3.toNat ∧ c.s3.toNat ≤ 8 ∨ v = .own ∧ c.s3 = 9) := by
  rcases Nat.eq_zero_or_pos c.s3.toNat with hzero | hpos
  · have hs3 : c.s3 = 0 := BitVec.eq_of_toNat_eq hzero
    exact ⟨_, view_summary hs3, .inl ⟨rfl, hs3⟩⟩
  · by_cases hle : c.s3.toNat ≤ 8
    · exact ⟨_, view_waiter hpos hle, .inr (.inl ⟨rfl, hpos, hle⟩)⟩
    · have hs3 : c.s3 = 9 := BitVec.eq_of_toNat_eq (by show c.s3.toNat = 9; omega)
      exact ⟨_, view_own hs3, .inr (.inr ⟨rfl, hs3⟩)⟩

/-- R147's table. -/
theorem inspectCommand_checks (hN : s.NamesLaw) : FirstApplies
    [(9 < c.s3.toNat, .badOperand),
     (c.name = 0, .badName),
     (s.Absent c.name, .noRecord),
     (∃ i r, s.Named c.name i r ∧ 1 ≤ c.s3.toNat ∧ c.s3.toNat ≤ 8 ∧ r.queue.length < c.s3.toNat, .endOfList),
     (∃ i r, s.Named c.name i r ∧ c.s3 = 9 ∧ r.holding st = none, .notHolder),
     (True, .done)]
    (inspectCommand st c s).2.code := by
  by_cases hoperand : 9 < c.s3.toNat
  · rw [inspectCommand_badOperand (view_eq_none hoperand)]
    exact .here hoperand
  refine .skip hoperand ?_
  obtain ⟨v, hv, hview⟩ := exists_view hoperand
  by_cases hz : c.name = 0
  · rw [inspectCommand_badName hv hz]
    exact .here hz
  refine .skip hz ?_
  by_cases habsent : s.Absent c.name
  · rw [inspectCommand_noRecord hv hz habsent]
    exact .here habsent
  refine .skip habsent ?_
  obtain ⟨i, r, hn⟩ := State.exists_named_of_not_absent habsent
  have hend := State.exists_named_iff hN hn fun _ q =>
    1 ≤ c.s3.toNat ∧ c.s3.toNat ≤ 8 ∧ q.queue.length < c.s3.toNat
  have hholder := State.exists_named_iff hN hn fun _ q => c.s3 = 9 ∧ q.holding st = none
  rw [inspectCommand_view hv hN hn]
  rcases hview with ⟨rfl, hs3⟩ | ⟨rfl, hpos, hle⟩ | ⟨rfl, hs3⟩
  · refine .skip (fun h => ?_) (.skip (fun h => ?_) (.here trivial))
    · have hpos := (hend.mp h).1
      rw [hs3] at hpos
      exact absurd hpos (by decide)
    · exact absurd (hs3.symm.trans (hholder.mp h).1) (by decide)
  · by_cases hlength : r.queue.length < c.s3.toNat
    · rw [view_waiter_none (List.getElem?_eq_none (by omega))]
      exact .here (hend.mpr ⟨hpos, hle, hlength⟩)
    · rw [view_waiter_some (List.getElem?_eq_getElem (by omega))]
      refine .skip (fun h => hlength (hend.mp h).2.2) (.skip (fun h => ?_) (.here trivial))
      rw [(hholder.mp h).1] at hle
      exact absurd hle (by decide)
  · refine .skip (fun h => ?_) ?_
    · have hle := (hend.mp h).2.1
      rw [hs3] at hle
      exact absurd hle (by decide)
    · cases hh : r.holding st with
      | none =>
        rw [view_own_none hh]
        exact .here (hholder.mpr ⟨hs3, hh⟩)
      | some g =>
        rw [view_own_some hh]
        exact .skip (fun h => absurd (hh.symm.trans (hholder.mp h).2) (by simp)) (.here trivial)

end Inspect

theorem Record.summaryView_eq (r : Record) : r.summaryView =
    ⟨.done,
      BitVec.ofNat 8 (r.attrs.leaseClass.val + (if r.attrs.sharedAllowed = true then 4 else 0)
        + (match r.derivedMode with
          | .idle => 0
          | .shared => 8
          | .exclusive => 16)
        + (if r.taint = none then 0 else 32) + (if r.kind = .standing then 64 else 0)),
      stationSet r.holds,
      BitVec.ofNat 8 (r.queue.length % 16 + if ∃ w ∈ r.queue.head?, w.request = .upgrade then 16 else 0),
      r.attrs.permit⟩ := by
  have hhead : (if r.upgradeWaiterAtHead = true then 16 else 0)
      = if ∃ w ∈ r.queue.head?, w.request = .upgrade then 16 else 0 := if_congr r.upgradeWaiterAtHead_iff rfl rfl
  rw [Record.summaryView, summaryByte_eq, waitersByte_eq, hhead]

theorem Waiter.view_eq (w : Waiter) : w.view =
    ⟨.done, BitVec.ofNat 8 w.station.val, match w.request with | .shared => 0 | .exclusive => 1 | .upgrade => 2,
      match w.deadline with | .ticks k => BitVec.ofNat 8 k | .unlimited => 255, 0⟩ := by
  obtain ⟨a, request, deadline⟩ := w
  cases request <;> cases deadline <;> rfl

theorem Holding.view_eq (h : Holding) (taint : Option StationId) : h.view taint =
    ⟨.done, BitVec.ofNat 8 h.depth, if h.mode = .shared then 0 else 1, BitVec.ofNat 8 (h.lease.getD 0),
      BitVec.ofNat 8 ((if h.mode = .shared then 0 else 1)
        + (match taint with | none => 0 | some a => 2 + 4 * a.val))⟩ := by
  rw [Holding.view, holdingByte_eq, Mode.byte_eq]
  rfl

/-- Settles O42. -/
theorem inspectReportsViews : Obligations.InspectReportsViews := by
  intro s st c hdue hN
  have hexec : exec (.inspect st) s = posted s st (inspectCommand st c s).2 := by
    rw [exec_inspect_due hdue, inspectCommand_fst]
  have hview {v : View} {i : SlotId} {r : Record} (hv : c.view = some v) (hn : s.Named c.name i r) :
      exec (.inspect st) s = posted s st (r.view st v) := by
    rw [hexec, inspectCommand_view hv hN hn]
  refine ⟨?checks, Record.derivedMode_iff, fun i r hn hs3 => ?summary, fun i r w n hn hs3 hlt hw => ?waiter,
    fun i r h hn hs3 hh => ?own⟩
  case checks =>
    refine ⟨_, hexec, ?_, ?_⟩
    · rw [posted_result]
      exact hexec
    · rw [posted_result]
      exact inspectCommand_checks hN
  case summary =>
    refine ⟨stationSet r.holds, fun a => getLsbD_stationSet r.holds a, ?_⟩
    exact (hview (view_summary hs3) hn).trans (congrArg (posted s st) r.summaryView_eq)
  case waiter =>
    have hwaiter := view_waiter_some (r := r) (st := st) (p := c.s3.toNat) (w := w) (by rwa [hs3])
    exact (hview (view_waiter (by omega) (by omega)) hn).trans (congrArg (posted s st) (hwaiter.trans w.view_eq))
  case own =>
    exact (hview (view_own hs3) hn).trans (congrArg (posted s st) ((view_own_some hh).trans (h.view_eq r.taint)))

/-! ### The listing commands -/

theorem Scope.isMatch_iff (scope : Scope) (st : StationId) (r : Record) :
    scope.isMatch st r = true ↔ scope.Covers st r := by
  cases scope with
  | own => exact r.holds_iff st
  | all => exact iff_of_true rfl trivial
  | standing => exact beq_iff_eq
  | tainted => exact Option.isSome_iff_ne_none

section Listing

variable {s : State} {st : StationId} {cur : Cursor}

/-- The step of a listing that finds a record (R154). -/
theorem listFrom_match {p : SlotId} {r : Record} (hr : s.record p = some r) (hle : cur.index.val ≤ p.val)
    (hcovers : cur.scope.Covers st r)
    (hfirst : ∀ q : SlotId, cur.index.val ≤ q.val → q < p → ∀ r' ∈ s.record q, ¬ cur.scope.Covers st r') :
    listFrom st cur s = (s.setCursor st { cur with index := p.succ },
      ⟨.done, r.name.extractLsb' 8 8, r.name.extractLsb' 0 8, byteOf p.val, 0⟩) := by
  have hnext : s.nextMatch st cur = some (p, r) := by
    refine (findSome_finRange_eq_some _ _).mpr ⟨p, ?_, fun q hq => ?_⟩
    · rw [hr]
      exact if_pos ⟨hle, (cur.scope.isMatch_iff st r).mpr hcovers⟩
    · cases hr' : s.record q with
      | none => rfl
      | some r' => exact if_neg fun h => hfirst q h.1 hq r' hr' ((cur.scope.isMatch_iff st r').mp h.2)
  rw [listFrom, hnext]

/-- The step of a listing at its end (R154). -/
theorem listFrom_end (hnone : ∀ q : SlotId, cur.index.val ≤ q.val → ∀ r' ∈ s.record q, ¬ cur.scope.Covers st r') :
    listFrom st cur s = (s.setCursor st { cur with index := 64 }, .bare .endOfList) := by
  have hnext : s.nextMatch st cur = none := by
    refine (findSome_finRange_eq_none _).mpr fun q => ?_
    cases hr' : s.record q with
    | none => rfl
    | some r' => exact if_neg fun h => hnone q h.1 r' hr' ((cur.scope.isMatch_iff st r').mp h.2)
  rw [listFrom, hnext]

end Listing

theorem scope_eq_none {c : Captured} (h : 3 < c.s2.toNat) : c.scope = none := by
  unfold Captured.scope
  split
  · omega
  · omega
  · omega
  · omega
  · rfl

theorem scope_eq_some {c : Captured} {scope : Scope}
    (h : c.s2 = (match scope with | .own => (0 : Byte) | .all => 1 | .standing => 2 | .tainted => 3)) :
    c.scope = some scope := by
  unfold Captured.scope
  rw [h]
  cases scope <;> rfl

theorem listFirstCommand_scope (st : StationId) {c : Captured} (s : State) {scope : Scope} (h : c.scope = some scope) :
    listFirstCommand st c s = listFrom st ⟨scope, 0⟩ s := by
  rw [listFirstCommand, h]

theorem listFirstCommand_badOperand (st : StationId) {c : Captured} (s : State) (h : c.scope = none) :
    listFirstCommand st c s = (s, .bare .badOperand) := by
  rw [listFirstCommand, h]

theorem listNextCommand_cursor {st : StationId} (c : Captured) {s : State} {cur : Cursor}
    (h : (s.ctx st).cursor = some cur) : listNextCommand st c s = listFrom st cur s := by
  rw [listNextCommand, h]

theorem listNextCommand_badState {st : StationId} (c : Captured) {s : State} (h : (s.ctx st).cursor = none) :
    listNextCommand st c s = (s, .bare .badState) := by
  rw [listNextCommand, h]

/-- Settles O43. -/
theorem listingReturnsNextMatch : Obligations.ListingReturnsNextMatch := by
  intro s st c row scope index
  refine ⟨fun hdue hoperand => ?operand, fun hdue hcleared => ?state, fun hrow => ?listed⟩
  case operand =>
    rw [exec_listFirst_due hdue, listFirstCommand_badOperand st s (scope_eq_none hoperand)]
    rfl
  case state =>
    rw [exec_listNext_due hdue, listNextCommand_badState c hcleared]
    rfl
  case listed =>
    obtain ⟨cur, rfl, rfl, hexec⟩ : ∃ cur : Cursor, cur.scope = scope ∧ cur.index.val = index
        ∧ exec row s = posted (listFrom st cur s).1 st (listFrom st cur s).2 := by
      rcases hrow with ⟨hdue, rfl, rfl, hscope⟩ | ⟨hdue, rfl, cur, hcur, hscope, hindex⟩
      · exact ⟨⟨scope, 0⟩, rfl, rfl, by rw [exec_listFirst_due hdue, listFirstCommand_scope st s (scope_eq_some hscope)]⟩
      · exact ⟨cur, hscope, hindex, by rw [exec_listNext_due hdue, listNextCommand_cursor c hcur]⟩
    refine ⟨fun p r hr hle hcovers hfirst => ?_, fun hnone => ?_⟩
    · rw [hexec, listFrom_match hr hle hcovers hfirst]
      rfl
    · rw [hexec, listFrom_end hnone]
      rfl

/-! ### STATION INFO -/

theorem stationInfoCommand_badOperand (st : StationId) {c : Captured} (s : State) (h : c.namedStation = none) :
    stationInfoCommand st c s = (s, .bare .badOperand) := by
  rw [stationInfoCommand, h]

theorem stationInfoCommand_report (st : StationId) {c : Captured} (s : State) {a : StationId}
    (h : c.namedStation = some a) : stationInfoCommand st c s = (s, s.stationReport a) := by
  rw [stationInfoCommand, h]

theorem Life.code_byte (l : Life) : l.code.setWidth 8 =
    match l with | .offline => (0 : Byte) | .online => 1 | .detaching => 2 | .purging => 3 := by
  cases l <;> rfl

theorem waitName_eq_zero {s : State} {a : StationId} (h : ¬ s.Waiting a) : s.waitName a = 0 := by
  rw [State.waitName, (s.waitOf_eq_none a).mpr h]

theorem waitName_eq_name {s : State} (hone : s.OneWaitLaw) {i : SlotId} {r : Record} {w : Waiter}
    (hr : s.record i = some r) (hw : w ∈ r.queue) : s.waitName w.station = r.name := by
  rw [State.waitName, (s.waitOf_eq_some hone w.station i r w).mpr ⟨hr, hw, rfl⟩]

/-- Settles O44. -/
theorem stationInfoReports : Obligations.StationInfoReports := by
  intro s st c hdue
  refine ⟨fun hoperand => ?operand, fun a ha => ⟨s.waitName a, waitName_eq_zero, fun i r hone hr hwait => ?name, ?report⟩⟩
  case operand =>
    rw [exec_stationInfo_due hdue, stationInfoCommand_badOperand st s (stationOf_eq_none c.s3 hoperand)]
    rfl
  case name =>
    obtain ⟨w, hw, rfl⟩ := hwait
    exact waitName_eq_name hone hr hw
  case report =>
    have hlife := (s.ctx a).life.code_byte
    have hreport : s.stationReport a = ⟨.done, (match (s.ctx a).life with
        | .offline => (0 : Byte) | .online => 1 | .detaching => 2 | .purging => 3), BitVec.ofNat 8 (s.holdingCount a),
        (s.waitName a).extractLsb' 8 8, (s.waitName a).extractLsb' 0 8⟩ := by
      rw [State.stationReport, hlife]
      exact rfl
    rw [exec_stationInfo_due hdue, stationInfoCommand_report st s (stationOf_eq_some c.s3 a ha)]
    exact congrArg (posted s st) hreport

end Sys2Proof.Machine
end
